-- ==== Sys2Proof/Word.lean ====
section
/-! DEFINITION. The two widths the spec gives its quantities: bytes of the memories and messages, and the 16-bit
port words that carry a bit length or a blob length (spec/00_scope.md R6, R8). -/

namespace Sys2Proof

/-- A byte: 8 bits, bit 7 the most significant (00_scope R8). -/
abbrev Byte := BitVec 8

/-- A 16-bit port word: `cfg_bits`, `rst_bits` or `ind_len` (30_encoding R70 to R72). -/
abbrev Word := BitVec 16

end Sys2Proof
end

