-- ==== Sys2Proof/Config.lean ====
section
/-! DEFINITION. The type of the record that gathers every literal the spec takes from its source, so that an audit
of one of them changes one place (spec/93_implementation_defined.md section 3, spec/00_scope.md R5, R6). The record's
one value is Sys2Proof.Machine.config, in Machine/Literals.lean. The block has no free value: the spec leaves no
result of any command open. -/

namespace Sys2Proof

/-- The constants of 00_scope R5 and R6. -/
structure Config where
  /-- `PATTERN`, the alternating-bit preamble byte. -/
  pattern : Byte
  /-- `SOF`, the start-of-frame byte. -/
  sof : Byte
  /-- `PAD`, the trailing pad byte. -/
  pad : Byte
  /-- `ZWAVE_MARKER`, the one recognised marker. -/
  marker : Byte
  /-- `HEADER_LEN`, the length of the injected header. -/
  headerLen : Nat
  /-- `WORK`, the literal of the length check. -/
  work : Nat
  /-- `CAP`, the number of cells of `PBUF`, and `SCRATCH_CAP`, that of `SCRATCH`: both 256. -/
  cap : Nat
  /-- The strap `PBITS_RESET` that `State.reset` takes; DESIGN CHOICE, log 2. Every reset event carries its own. -/
  pbitsReset : Word
  deriving DecidableEq, Repr

end Sys2Proof
end

