-- ==== Sys2Proof/Machine/Literals.lean ====
section
/-! DEFINITION. The value of the configuration record: every literal the spec takes from its source, in one place
(spec/00_scope.md R5, R6; spec/93_implementation_defined.md section 3; log 19). -/

namespace Sys2Proof.Machine

/-- The literals of 00_scope R5 and R6. -/
def config : Config where
  pattern := 0x55#8
  sof := 0xF0#8
  pad := 0xAA#8
  marker := 0x01#8
  headerLen := 8
  work := 256
  cap := 256
  pbitsReset := 0#16

/-- `L_MAX = 8 * (CAP - 1)`, the largest legal preamble bit length (R6). -/
def lMax : Nat := 8 * (config.cap - 1)

end Sys2Proof.Machine
end

