-- ==== Sys2Proof/Machine/Mem.lean ====
section
/-! DEFINITION. A byte memory as a list of cells in one canonical form: addresses strictly rising, each below `CAP`.
A cell that is not listed holds no value (spec/10_state.md R23, R34, R38; log 4), so no listed entry can equal it. -/

namespace Sys2Proof.Machine

/-- One of the two memories, `PBUF` or `SCRATCH` (20_memory R50). -/
abbrev Mem := List Host.Cell

/-- What a cell holds that nothing has written: no value (10_state R38; log 4). -/
def Mem.unlisted : Option Byte := none

/-- The byte at an address, if the cell has been written. -/
def Mem.read : Mem → Nat → Option Byte
  | [], _ => Mem.unlisted
  | (k, v) :: rest, a => if k = a then some v else Mem.read rest a

/-- Write one cell, keeping the addresses rising. -/
def Mem.put : Mem → Nat → Byte → Mem
  | [], a, v => [(a, v)]
  | (k, w) :: rest, a, v =>
    if a < k then (a, v) :: (k, w) :: rest
    else if a = k then (a, v) :: rest
    else (k, w) :: Mem.put rest a v

/-- Write a list of bytes to ascending addresses from `a` (00_scope R10, `MemWrite`). -/
def Mem.putList : Mem → Nat → List Byte → Mem
  | m, _, [] => m
  | m, a, v :: vs => Mem.putList (Mem.put m a v) (a + 1) vs

/-- Addresses strictly rising from `lo` on, each one that exists. -/
def Mem.wfFrom (lo : Nat) : Mem → Bool
  | [] => true
  | (k, _) :: rest => decide (lo ≤ k) && decide (k < config.cap) && Mem.wfFrom (k + 1) rest

/-- The canonical form. -/
def Mem.wf (m : Mem) : Bool := Mem.wfFrom 0 m

end Sys2Proof.Machine
end

