-- ==== Sys2Proof/Machine/Offsets.lean ====
section
/-! DEFINITION. The payload buffer offset calculator, spec/41_offset_calculator.md R120 to R130: pure functions of
`S = PSIZE` and `dataLen`, on unbounded non-negative integers (R127). -/

namespace Sys2Proof.Machine

/-- `Ceil8(L)`, the number of preamble bytes (R130). -/
def ceil8 (L : Nat) : Nat := L / 8 + (if L % 8 ≠ 0 then 1 else 0)

/-- `OffSof(S)`, the index of the SOF byte (R120). -/
def offSof (S : Nat) : Nat := S

/-- `OffPayload(S)`, the index of the first payload byte (R121). -/
def offPayload (S : Nat) : Nat := S + 1

/-- `OffPad(S, n)`, the index of the pad byte (R122). -/
def offPad (S n : Nat) : Nat := S + 1 + n

/-- `FrameLen(S, n)`, the number of bytes published (R123). -/
def frameLen (S n : Nat) : Nat := S + 1 + n + 1

/-- `LenLimit(S) = 256 - 1 - 1 - S`, the first length that is refused; negative for `S = 255` (R124). -/
def lenLimit (S : Nat) : Int := (config.work : Int) - 1 - 1 - S

/-- The second disjunct of the length check, `dataLen + S >= 254`, rearranged so that nothing is subtracted from a
variable (R124, D15). -/
def lenOver (S dataLen : Nat) : Bool := decide (config.work - 1 - 1 ≤ dataLen + S)

/-- `LenOk(S, dataLen)` (R124). -/
def lenOk (S dataLen : Nat) : Bool := decide (dataLen ≠ 0) && !lenOver S dataLen

/-- `LinkLen(dataLen) = dataLen - 8`; for a shorter blob it has no value (R126). -/
def linkLen (dataLen : Nat) : Option Nat :=
  if config.headerLen ≤ dataLen then some (dataLen - config.headerLen) else none

end Sys2Proof.Machine
end

