-- ==== Sys2Proof/Machine/Preamble.lean ====
section
/-! DEFINITION. The byte function of the preamble bit-alignment engine, transcribed with its three branches in the
spec's order (spec/40_preamble_builder.md R102; spec/90_conflicts.md C1, C2, C7), and the buffer content that
construction leaves (R109). -/

namespace Sys2Proof.Machine

/-- The boundary mask `~(0xFF << shift) & 0xFF` (R102). Computed in 16 bits, which hold every `0xFF << shift` with
`shift` below 8 whole; `& 0xFF` then keeps the low byte. The active formula of the source, UNVERIFIED (log 19). -/
def boundaryMask (shift : Nat) : Byte :=
  ((~~~(0xFF#16 <<< shift)) &&& 0xFF#16).setWidth 8

/-- `PreambleByte(L, S, i)`, the source's three-way test (R102). -/
def preambleByte (L S i : Nat) : Byte :=
  if L ≤ (S - (i + 1)) * 8 then 0x00#8
  else if L < (S - i) * 8 then config.pattern &&& boundaryMask (L % 8)
  else config.pattern

/-- `PreambleBytes(L)` (R102). -/
def preambleBytes (L : Nat) : List Byte := (List.range (ceil8 L)).map (preambleByte L (ceil8 L))

/-- `PBUF` after construction with a bit length: the preamble and the SOF byte, every other cell without value
(R109, 70_reset_and_hazards R210). -/
def constructedPbuf (L : Nat) : Mem :=
  (Mem.putList [] 0 (preambleBytes L)).put (offSof (ceil8 L)) config.sof

end Sys2Proof.Machine
end

