-- ==== Sys2Proof/Syntax.lean ====
section
/-! DEFINITION. The commands of the block: the six mnemonics of spec/opcode_table.json (spec/30_encoding.md R82, R85,
R86, R87). The table's eight DROP rows are eight patterns of one command, told apart by the marker (log 14). -/

namespace Sys2Proof

/-- A decoded command. The first four come from the first-stage decode (format D1), the last two from the
second-stage decode of a `BLOB` that passed its length check (format D2). -/
inductive Instr where
  /-- `CFG L`, 40_preamble_builder R100; `bitLength` is `cfg_bits`. -/
  | cfg (bitLength : Word)
  /-- `BLOB b`, 42_frame_processor R144; `bytes` are the `dataLen` bytes taken from `inb`. -/
  | blob (bytes : List Byte)
  /-- `EOS`, 42_frame_processor R142. -/
  | eos
  /-- `BAD`, 42_frame_processor R143. -/
  | bad
  /-- `FRAME`, 42_frame_processor R152; `dataLen` is the length of the blob that `SCRATCH` holds. -/
  | frame (dataLen : Nat)
  /-- `DROP`, 42_frame_processor R151; `marker` is the byte that selected it. -/
  | drop (marker : Byte)
  deriving DecidableEq, Repr

end Sys2Proof
end

