-- ==== Sys2Proof/Machine/State.lean ====
section
/-! DEFINITION. The state of the block (spec/10_state.md R20 to R38), the messages it emits and the moves its host can
make, the reasons a step can stop, and the state after reset (spec/70_reset_and_hazards.md R210). -/

namespace Sys2Proof.Machine

/-- An outbound message (00_scope R11, 30_encoding R77). -/
inductive OutMsg where
  /-- `Phy(bytes)`, a physical frame. -/
  | phy (bytes : List Byte)
  /-- `Beam(t)`, a wake-up beam. -/
  | beam (target : Byte)
  /-- `EosOut`, the end-of-stream message. -/
  | eosOut
  deriving DecidableEq, Repr

/-- The six errors a command can raise (60_exceptions R180). -/
inductive Err where
  | badShape | lenZero | lenOver | shortHdr | closed | cfgRange
  deriving DecidableEq, Repr

/-- What the host does at one edge where the block is ready (00_scope R14, 20_memory R57, 70_reset_and_hazards R223).
The list of them is the model's own field (log 1). -/
inductive HostMove where
  /-- `rst` = 1 with the strap `rst_bits` (R210). -/
  | reset (rstBits : Word)
  /-- An offer on port `cfg` alone; `kindWires` is what the `ind_kind` wires hold meanwhile, a don't-care
  (30_encoding R70, R85). -/
  | cfg (kindWires : BitVec 2) (cfgBits : Word)
  /-- A descriptor on channel `ind` alone (30_encoding R72). -/
  | ind (indKind : BitVec 2) (indLen : Word)
  /-- Both ports offer at the same edge (20_memory R57, 70_reset_and_hazards R217; log 18). -/
  | both (cfgBits : Word) (indKind : BitVec 2) (indLen : Word)
  deriving DecidableEq, Repr

/-- Why a step faults. None of them is an error of the block: those are `Err` and the run goes on after them. -/
inductive Fault where
  /-- Raised by the read of a memory cell that nothing has written: the spec gives it no value (10_state R23, R38).
  Safe: the model stops. No command that `step` runs on an invariant state reaches it. -/
  | unwrittenCell
  /-- Raised by an access at an index outside 0 to 255, which does not exist (20_memory R50, R62). Safe: the model
  stops. No command that `step` runs on an invariant state reaches it. -/
  | noSuchCell
  /-- Raised by the fetch of a `BLOB` of which the host has sent fewer bytes than its descriptor announced: the block
  waits for the rest (93_implementation_defined U16, stuck). Safe: the model stops (log 8). -/
  | awaitingBlobBytes
  deriving DecidableEq, Repr

/-- Why a step is refused. -/
inductive Refusal where
  /-- Answered by an arm of `exec` whose command has no meaning yet; none is left. Safe: the model stops. -/
  | notModelled (mnemonic : String)
  /-- Answered by a reset event whose strap is above 2040: no such instance exists (70_reset_and_hazards R211).
  Safe: the model stops (log 9). -/
  | strapOutOfRange
  deriving DecidableEq, Repr

/-- The state of the block, and what its host has yet to deliver. -/
structure State where
  /-- The preamble buffer (10_state R20). -/
  pbuf : Mem
  /-- The scratch buffer (10_state R22). -/
  scratch : Mem
  /-- The configured preamble bit length `L` (10_state R24). -/
  pbits : Word
  /-- The number of preamble bytes `S`, and the index of the SOF byte (10_state R25). -/
  psize : BitVec 8
  /-- The terminal done flag: false is Active, true is Closed (10_state R28). -/
  done : Bool
  /-- The sticky fault flag (10_state R29). -/
  fault : Bool
  /-- The code of the most recent error, 0 for none (10_state R30). -/
  errcode : BitVec 3
  /-- The beam register (10_state R31; log 6). -/
  beamNode : Byte
  /-- The outbound messages, oldest first (30_encoding R78). -/
  out : List OutMsg
  /-- The error events, oldest first (30_encoding R78). -/
  err : List Err
  /-- The model's own: the host's moves that the block has yet to take, oldest first (log 1). -/
  moves : List HostMove
  /-- The model's own: the bytes the host offers on channel `inb`, oldest first (30_encoding R73; log 1). -/
  inb : List Byte
  deriving DecidableEq, Repr

/-- The state a reset event with strap `rstBits` leaves, for a host that then offers `moves` and `inb`
(70_reset_and_hazards R210, 10_state R38). `BEAM_NODE`, which the spec leaves unspecified, is 0: DESIGN CHOICE,
log 3. -/
def State.afterReset (rstBits : Word) (moves : List HostMove) (inb : List Byte) : State where
  pbuf := constructedPbuf rstBits.toNat
  scratch := []
  pbits := rstBits
  psize := BitVec.ofNat 8 (ceil8 rstBits.toNat)
  done := false
  fault := false
  errcode := 0#3
  beamNode := 0x00#8
  out := []
  err := []
  moves := moves
  inb := inb

/-- The machine right after reset, with the strap the configuration record names (DESIGN CHOICE, log 2) and nothing
offered by the host (log 13). -/
def State.reset : State := State.afterReset config.pbitsReset [] []

end Sys2Proof.Machine
end

