-- ==== Sys2Proof/Machine/Flags.lean ====
section
/-! DEFINITION. The flags DONE, FAULT and ERRCODE (spec/10_state.md R28 to R30), the error codes
(spec/60_exceptions.md R180) and the four status outputs (10_state R37). -/

namespace Sys2Proof.Machine

/-- The 3-bit code of an error (60_exceptions R180). -/
def Err.code : Err → BitVec 3
  | .badShape => 1#3
  | .lenZero => 2#3
  | .lenOver => 3#3
  | .shortHdr => 4#3
  | .closed => 5#3
  | .cfgRange => 6#3

/-- FAULT and ERRCODE take an error (10_state R29, R30). -/
def State.recordError (e : Err) (s : State) : State := { s with fault := true, errcode := e.code }

/-- DONE is set: the block enters Closed (10_state R28, 60_exceptions R193). -/
def State.close (s : State) : State := { s with done := true }

/-- The status output `st_done` (10_state R37). -/
def State.stDone (s : State) : BitVec 1 := BitVec.ofBool s.done

/-- The status output `st_fault` (10_state R37). -/
def State.stFault (s : State) : BitVec 1 := BitVec.ofBool s.fault

/-- The status output `st_errcode[2:0]` (10_state R37). -/
def State.stErrcode (s : State) : BitVec 3 := s.errcode

/-- The status output `st_psize[7:0]` (10_state R37). -/
def State.stPsize (s : State) : BitVec 8 := s.psize

end Sys2Proof.Machine
end

