-- ==== Sys2Proof/Machine/Ops.lean ====
section
/-! DEFINITION. The named operations the commands are made of: the memory primitives MemRead and MemWrite on PBUF and
SCRATCH (spec/00_scope.md R10, spec/20_memory.md R50, R55), emitting a message (R10, spec/30_encoding.md R78), taking an
error (spec/60_exceptions.md R189), and the register writes. There is no return from an error (R191): after a raise the
next command is executed as if the failing one had never been delivered, so no operation stands beside it. -/

namespace Sys2Proof.Machine

/-- The outcome of a step of this block. -/
abbrev Result := Host.Outcome State Fault Refusal

/-- Go on with the value of an access, or stop with its fault. -/
def onOk {α : Type} (x : Except Fault α) (k : α → Result) : Result :=
  match x with
  | .ok a => k a
  | .error f => .fault f

/-- `M[a]`, one byte (00_scope R10); a cell outside the memory or without a value stops. -/
def readByte (m : Mem) (a : Nat) : Except Fault Byte :=
  if a < config.cap then
    match m.read a with
    | some v => .ok v
    | none => .error .unwrittenCell
  else .error .noSuchCell

/-- `MemRead(M:a, n)`, `n` bytes in ascending index order (00_scope R10). -/
def memRead (m : Mem) (a : Nat) : Nat → Except Fault (List Byte)
  | 0 => .ok []
  | n + 1 => (readByte m a).bind fun v => (memRead m (a + 1) n).map fun vs => v :: vs

/-- `MemWrite(M:a, n, v)`, ascending (00_scope R10); an access past the last cell stops. -/
def memWrite (m : Mem) (a : Nat) (vs : List Byte) : Except Fault Mem :=
  if a + vs.length ≤ config.cap then .ok (m.putList a vs) else .error .noSuchCell

/-- `MemRead(PBUF:a, n)`. -/
def State.readPbuf (s : State) (a n : Nat) : Except Fault (List Byte) := memRead s.pbuf a n

/-- `MemRead(SCRATCH:a, n)`. -/
def State.readScratch (s : State) (a n : Nat) : Except Fault (List Byte) := memRead s.scratch a n

/-- `PBUF` takes a new content. -/
def State.setPbuf (m : Mem) (s : State) : State := { s with pbuf := m }

/-- `SCRATCH` takes a new content. -/
def State.setScratch (m : Mem) (s : State) : State := { s with scratch := m }

/-- `MemWrite(PBUF:a, n, v)`. -/
def State.writePbuf (s : State) (a : Nat) (vs : List Byte) : Except Fault State :=
  (memWrite s.pbuf a vs).map fun m => s.setPbuf m

/-- `MemWrite(SCRATCH:a, n, v)`. -/
def State.writeScratch (s : State) (a : Nat) (vs : List Byte) : Except Fault State :=
  (memWrite s.scratch a vs).map fun m => s.setScratch m

/-- `PBITS <- L ; PSIZE <- S` (40_preamble_builder R100). -/
def State.setConfig (L : Word) (S : BitVec 8) (s : State) : State := { s with pbits := L, psize := S }

/-- `BEAM_NODE <- t` (42_frame_processor R153). -/
def State.loadBeam (t : Byte) (s : State) : State := { s with beamNode := t }

/-- `emit out <msg>` (00_scope R10): the message is a value fixed now (20_memory R61). -/
def State.emit (m : OutMsg) (s : State) : State := { s with out := s.out ++ [m] }

/-- Append an event to `ERR` (60_exceptions R189). -/
def State.logErr (e : Err) (s : State) : State := { s with err := s.err ++ [e] }

/-- TAKING AN ERROR, `raise X` (60_exceptions R189): FAULT and ERRCODE are written, the event is appended to ERR, and
the command is over, nothing being saved. The blob bytes of the command were taken from `inb` when it was fetched, so
the draining is done (Machine/Fetch.lean; 30_encoding R73). -/
def State.raise (e : Err) (s : State) : State := (s.recordError e).logErr e

/-- The beam loop of 42_frame_processor R152: one `Beam(BEAM_NODE)` for each `k`. -/
def State.emitBeams : Nat → State → State
  | 0, s => s
  | k + 1, s => State.emitBeams k (s.emit (.beam s.beamNode))

end Sys2Proof.Machine
end

