-- ==== Sys2Proof/Machine/Operands.lean ====
section
/-! DEFINITION. Operand assembly (spec/30_encoding.md R75, R83, R84): every operand is zero-extended, none is scaled.
The header fields and the link frame are views of SCRATCH (spec/42_frame_processor.md R148). -/

namespace Sys2Proof.Machine

/-- `L = zext(cfg_bits)` (30_encoding R84). -/
def cfgBitLength (cfgBits : Word) : Nat := cfgBits.toNat

/-- `S`, the register PSIZE as a number (10_state R25). -/
def State.size (s : State) : Nat := s.psize.toNat

/-- `headerRegion[0]`, the marker byte `SCRATCH[0]` (42_frame_processor R150). -/
def State.marker (s : State) : Except Fault Byte := readByte s.scratch 0

/-- `numBeams = zext(SCRATCH[1])`, unsigned (30_encoding R83). -/
def State.numBeams (s : State) : Except Fault Nat := (readByte s.scratch 1).map BitVec.toNat

/-- `targetNodeId = SCRATCH[2]` (30_encoding R83). -/
def State.targetNodeId (s : State) : Except Fault Byte := readByte s.scratch 2

/-- `linkFrame = SCRATCH[8 .. 8 + n)` (42_frame_processor R148). -/
def State.linkFrame (n : Nat) (s : State) : Except Fault (List Byte) := s.readScratch config.headerLen n

end Sys2Proof.Machine
end

