-- ==== Sys2Proof/Machine/FrameProcessor.lean ====
section
/-! DEFINITION. The Frame Processor: EOS, BAD, BLOB and the second stage of BLOB, DROP and FRAME
(spec/42_frame_processor.md R140 to R159). Each inbound command begins with the Closed check of R141. -/

namespace Sys2Proof.Machine

/-- The Closed-state check in front of every inbound message (R141). -/
def whenActive (s : State) (k : Result) : Result :=
  if s.done then .next (s.raise .closed) else k

/-- `EOS` (R142). -/
def execEos (s : State) : Result := whenActive s (.next (s.emit .eosOut).close)

/-- `BAD` (R143). -/
def execBad (s : State) : Result := whenActive s (.next (s.raise .badShape))

/-- `DROP` (R151): the command ends, nothing is written and nothing emitted. -/
def execDrop (_marker : Byte) (s : State) : Result := .next s

/-- Step 7 of the source (R153): the beam register is loaded once, then the beams are emitted; with no beams neither
`SCRATCH[2]` nor the register is touched. -/
def beamStage (s : State) : Except Fault State :=
  s.numBeams.bind fun k =>
    if 0 < k then s.targetNodeId.map fun t => (s.loadBeam t).emitBeams k else .ok s

/-- Step 8 (R154): the link frame goes to `PBUF[S + 1 ..)`. -/
def payloadStage (n : Nat) (s : State) : Except Fault State :=
  (s.linkFrame n).bind fun p => s.writePbuf (offPayload s.size) p

/-- Step 9 (R155): the pad byte goes behind the payload. -/
def padStage (n : Nat) (s : State) : Except Fault State := s.writePbuf (offPad s.size n) [config.pad]

/-- Step 10 (R156): the frame is read out of `PBUF` and emitted. -/
def publishStage (n : Nat) (s : State) : Except Fault State :=
  (s.readPbuf 0 (frameLen s.size n)).map fun bytes => s.emit (.phy bytes)

/-- Steps 7 to 10, in their written order (20_memory R58). -/
def buildFrame (n : Nat) (s : State) : Except Fault State :=
  (beamStage s).bind fun s1 => (payloadStage n s1).bind fun s2 => (padStage n s2).bind fun s3 => publishStage n s3

/-- `FRAME` (R152), on the blob of `dataLen` bytes that `SCRATCH` holds. It is reached through `BLOB` only, behind the
Closed and length checks, and does not make them again (log 11). -/
def execFrame (dataLen : Nat) (s : State) : Result :=
  match linkLen dataLen with
  | none => .next (s.raise .shortHdr)
  | some n => onOk (buildFrame n s) fun t => .next t

/-- The marker dispatch (R150): the whole byte is compared. -/
def secondStage (dataLen : Nat) (s : State) : Result :=
  onOk s.marker fun m => if m ≠ config.marker then execDrop m s else execFrame dataLen s

/-- `BLOB b` (R144): the length checks in the spec's order (R145), the copy (R147), the second stage. -/
def execBlob (b : List Byte) (s : State) : Result :=
  whenActive s
    (if b.length = 0 then .next (s.raise .lenZero)
     else if lenOver s.size b.length then .next (s.raise .lenOver)
     else onOk (s.writeScratch 0 b) fun s1 => secondStage b.length s1)

end Sys2Proof.Machine
end

