-- ==== Sys2Proof/Machine/PreambleBuilder.lean ====
section
/-! DEFINITION. The Preamble Builder: the command CFG (spec/40_preamble_builder.md R100, R101). -/

namespace Sys2Proof.Machine

/-- The writes of an accepted `CFG L` (R100): the registers, the preamble bytes, then the SOF byte. -/
def configure (L : Word) (s : State) : Except Fault State :=
  let S := ceil8 (cfgBitLength L)
  ((s.setConfig L (BitVec.ofNat 8 S)).writePbuf 0 (preambleBytes (cfgBitLength L))).bind fun s1 =>
    s1.writePbuf (offSof S) [config.sof]

/-- `CFG L` (R100), in either lifecycle state (R107). -/
def execCfg (L : Word) (s : State) : Result :=
  if lMax < cfgBitLength L then .next (s.raise .cfgRange)
  else onOk (configure L s) fun t => .next t

end Sys2Proof.Machine
end

