-- ==== Sys2Proof/Machine/Dispatch.lean ====
section
/-! DEFINITION. One arm per command. -/

namespace Sys2Proof.Machine

def exec (i : Instr) (s : State) : Host.Outcome State Fault Refusal :=
  match i with
  | .cfg bitLength => Sys2Proof.Machine.execCfg bitLength s
  | .blob bytes => Sys2Proof.Machine.execBlob bytes s
  | .eos => Sys2Proof.Machine.execEos s
  | .bad => Sys2Proof.Machine.execBad s
  | .frame dataLen => Sys2Proof.Machine.execFrame dataLen s
  | .drop marker => Sys2Proof.Machine.execDrop marker s

end Sys2Proof.Machine
end

