-- ==== Sys2Proof/WellFormed.lean ====
section
/-! DEFINITION. Which commands the ports can carry: a blob length is 16 bits, and the marker of a DROP is not the one
that selects FRAME (spec/30_encoding.md R72, R86). -/

namespace Sys2Proof

/-- The command can stand on the ports as 30_encoding R82 and R86 give them. Every `CFG` operand is well formed: one
above 2040 is refused by the command itself (40_preamble_builder R100), not by its encoding. -/
def Instr.wf : Instr → Bool
  | .cfg _ => true
  | .blob bytes => decide (bytes.length < 65536)
  | .eos => true
  | .bad => true
  | .frame dataLen => decide (dataLen < 65536)
  | .drop marker => decide (marker ≠ 0x01#8)

end Sys2Proof
end

