-- ==== Sys2Proof/Decode.lean ====
section
/-! DEFINITION. The two-stage decoder (spec/30_encoding.md R85, R86), the thirteen rows of the opcode map it realises
(R87), and the encoder. The first stage is total on its 3-bit dispatch word and the second on its 8-bit one; the only
thing a decode can lack is blob bytes the host has not sent (93_implementation_defined U16). -/

namespace Sys2Proof

/-- The six mnemonics of the opcode map. -/
inductive Mnemonic where
  | cfg | blob | eos | bad | frame | drop
  deriving DecidableEq, Repr

/-- The two dispatch-word formats, `D1` of 3 bits and `D2` of 8 (R87). -/
inductive Format where
  | d1 | d2
  deriving DecidableEq, Repr

/-- One row of the opcode map: a word `w` selects it when `w & mask = pattern` (R87). -/
structure OpcodeRow where
  mnemonic : Mnemonic
  format : Format
  mask : Nat
  pattern : Nat
  deriving DecidableEq, Repr

/-- The thirteen rows of spec/opcode_table.json, in its order. -/
def opcodeRows : List OpcodeRow :=
  [ ⟨.cfg, .d1, 0x4, 0x4⟩, ⟨.blob, .d1, 0x7, 0x0⟩, ⟨.eos, .d1, 0x7, 0x1⟩, ⟨.bad, .d1, 0x6, 0x2⟩,
    ⟨.frame, .d2, 0xFF, 0x01⟩ ] ++
  [ ⟨.drop, .d2, 0x80, 0x80⟩, ⟨.drop, .d2, 0xC0, 0x40⟩, ⟨.drop, .d2, 0xE0, 0x20⟩, ⟨.drop, .d2, 0xF0, 0x10⟩,
    ⟨.drop, .d2, 0xF8, 0x08⟩, ⟨.drop, .d2, 0xFC, 0x04⟩, ⟨.drop, .d2, 0xFE, 0x02⟩, ⟨.drop, .d2, 0xFF, 0x00⟩ ]

/-- The rows of a format that a word selects (R87). -/
def selectedRows (f : Format) (w : Nat) : List OpcodeRow :=
  opcodeRows.filter fun r => decide (r.format = f) && decide (w &&& r.mask = r.pattern)

/-- The mnemonic of a command. -/
def Instr.mnemonic : Instr → Mnemonic
  | .cfg _ => .cfg
  | .blob _ => .blob
  | .eos => .eos
  | .bad => .bad
  | .frame _ => .frame
  | .drop _ => .drop

/-- The first-stage dispatch word `dw1[2:0] = {port, kind[1:0]}` (R85). -/
def dispatchWord (port : BitVec 1) (kind : BitVec 2) : BitVec 3 := port ++ kind

/-- Why a command could not be decoded: the host has sent `got` of the `need` bytes of a blob (U16). -/
inductive DecodeError where
  | awaitingBytes (need : Nat) (got : Nat)
  deriving DecidableEq, Repr

/-- First-stage decode (R85): the command, and the bytes of `inb` that are left. `operand` is `cfg_bits` or
`ind_len`. A `BLOB` takes exactly `ind_len` bytes, every other command none (R73). -/
def decodeD1 (dw1 : BitVec 3) (operand : Word) (inb : List Byte) : Except DecodeError (Instr × List Byte) :=
  if dw1 &&& 0b100#3 = 0b100#3 then .ok (.cfg operand, inb)
  else if dw1 = 0b000#3 then
    if inb.length < operand.toNat then .error (.awaitingBytes operand.toNat inb.length)
    else .ok (.blob (inb.take operand.toNat), inb.drop operand.toNat)
  else if dw1 = 0b001#3 then .ok (.eos, inb)
  else .ok (.bad, inb)

/-- Second-stage decode (R86): the marker byte `SCRATCH[0]` of a blob of `dataLen` bytes. -/
def decodeD2 (dw2 : Byte) (dataLen : Nat) : Instr :=
  if dw2 = 0x01#8 then .frame dataLen else .drop dw2

/-- What the ports carry for a command: a first-stage dispatch word with its operand and blob bytes, or a
second-stage dispatch word with the descriptor's length. -/
inductive Words where
  | d1 (dw1 : BitVec 3) (operand : Word) (bytes : List Byte)
  | d2 (dw2 : Byte) (indLen : Word)
  deriving DecidableEq, Repr

/-- Decode of either format; `rest` is what stands on `inb` behind the command's own bytes. -/
def decode (w : Words) (rest : List Byte) : Except DecodeError (Instr × List Byte) :=
  match w with
  | .d1 dw1 operand bytes => decodeD1 dw1 operand (bytes ++ rest)
  | .d2 dw2 indLen => .ok (decodeD2 dw2 indLen.toNat, rest)

/-- The words of a well-formed command (R82, R85, R86). The don't-care bits of CFG are 00, BAD uses its own kind 10
and not the reserved 11, and an ignored `ind_len` is 0 (log 15). -/
def encode : Instr → Words
  | .cfg bitLength => .d1 0b100#3 bitLength []
  | .blob bytes => .d1 0b000#3 (BitVec.ofNat 16 bytes.length) bytes
  | .eos => .d1 0b001#3 0#16 []
  | .bad => .d1 0b010#3 0#16 []
  | .frame dataLen => .d2 0x01#8 (BitVec.ofNat 16 dataLen)
  | .drop marker => .d2 marker 0#16

/-- Whether a word the opcode table gives in `nbits` bits is read as a first-stage word. A word of fewer than 8 bits
is one; of the bytes, those below 8 are read as one too, because the first stage is where a command's decode begins
(log 12). -/
def isFirstStageWord (nbits w : Nat) : Bool := decide (nbits < 8) || decide (w < 8)

/-- The length of the blob that stands for a second-stage word: the shortest with a whole header (log 12). -/
def tableBlobLen : Nat := 8

/-- The command the decoder reads from an opcode-table word whose further operand bits are zero (log 12). -/
def decodeTableWord (nbits w : Nat) : Option Instr :=
  if isFirstStageWord nbits w then (decodeD1 (BitVec.ofNat 3 w) 0#16 []).toOption.map Prod.fst
  else if w < 256 then some (decodeD2 (BitVec.ofNat 8 w) tableBlobLen)
  else none

end Sys2Proof
end

