-- ==== Sys2Proof/Machine/Fetch.lean ====
section
/-! DEFINITION. Taking the host's next move: which port is served, what is decoded, which bytes are drained
(spec/20_memory.md R57, spec/30_encoding.md R73, R85; spec/70_reset_and_hazards.md R210, R211, R217). There is no program
counter (spec/10_state.md R36): the list of moves is the command sequence, and taking its head is the advance. -/

namespace Sys2Proof.Machine

/-- What the block finds at its ports. -/
inductive Fetched where
  /-- Nothing is offered: the block is idle (00_scope R14). -/
  | idle
  /-- A reset event, and the state it leaves. -/
  | event (t : State)
  /-- A command to execute, and the state with the transfer taken. -/
  | command (i : Instr) (t : State)
  /-- The command cannot be completed. -/
  | stuck (f : Fault)
  /-- No such run exists. -/
  | refused (r : Refusal)
  deriving DecidableEq, Repr

/-- The transfer of the ports: the host's moves and the bytes of `inb` that are left. -/
def State.setInput (moves : List HostMove) (inb : List Byte) (s : State) : State :=
  { s with moves := moves, inb := inb }

/-- Accept one command transfer: form its dispatch word, decode it and take its bytes from `inb`, all of them whatever
the command's outcome will be (30_encoding R73, R85). -/
def accept (port : BitVec 1) (kind : BitVec 2) (operand : Word) (rest : List HostMove) (s : State) : Fetched :=
  match decodeD1 (dispatchWord port kind) operand s.inb with
  | .ok (i, inb) => .command i (s.setInput rest inb)
  | .error (.awaitingBytes _ _) => .stuck .awaitingBlobBytes

/-- The host's next move. When both ports offer at one edge, `cfg` is served first and the descriptor stays offered
(20_memory R57). -/
def fetch (s : State) : Fetched :=
  match s.moves with
  | [] => .idle
  | .reset rstBits :: rest =>
    if lMax < rstBits.toNat then .refused .strapOutOfRange
    else .event (State.afterReset rstBits rest s.inb)
  | .cfg kindWires cfgBits :: rest => accept 1#1 kindWires cfgBits rest s
  | .ind indKind indLen :: rest => accept 0#1 indKind indLen rest s
  | .both cfgBits indKind indLen :: rest => accept 1#1 indKind cfgBits (.ind indKind indLen :: rest) s

/-- The host move that carries a first-stage dispatch word with a zero operand. -/
def moveOfDispatchWord (dw1 : BitVec 3) : HostMove :=
  if dw1.getLsbD 2 then .cfg (dw1.setWidth 2) 0#16 else .ind (dw1.setWidth 2) 0#16

/-- Offer, as the host's next move, the command an opcode-table word stands for (log 12): a first-stage word as a
transfer with a zero operand, a second-stage word as a BLOB of that marker with zeros behind it. -/
def offerTableWord (s : State) (nbits w : Nat) : State :=
  if isFirstStageWord nbits w then s.setInput (moveOfDispatchWord (BitVec.ofNat 3 w) :: s.moves) s.inb
  else s.setInput (.ind 0b00#2 (BitVec.ofNat 16 tableBlobLen) :: s.moves)
    ((BitVec.ofNat 8 w :: List.replicate (tableBlobLen - 1) 0x00#8) ++ s.inb)

end Sys2Proof.Machine
end

