-- ==== Sys2Proof/Machine/Step.lean ====
section
/-! DEFINITION. One step of the block: the execution of the host's next move to its end, one atomic transition
(spec/20_memory.md R57). -/

namespace Sys2Proof.Machine

/-- With nothing offered the block is idle and the state stays (log 10). -/
def step (s : State) : Host.Outcome State Fault Refusal :=
  match fetch s with
  | .idle => .next s
  | .event t => .next t
  | .command i t => exec i t
  | .stuck f => .fault f
  | .refused r => .refused r

/-- The state with the opcode-table word `w` offered as the host's next move (log 12, log 13). -/
def State.withFetchWord (s : State) (nbits w : Nat) : State := offerTableWord s nbits w

end Sys2Proof.Machine
end

