-- ==== Sys2Proof/Machine/Ports.lean ====
section
/-! DEFINITION. How the two output sequences travel on the ports `out` and `err` (spec/30_encoding.md R76, R77, R79). -/

namespace Sys2Proof.Machine

/-- One transfer on port `out` (R76). -/
structure OutTransfer where
  kind : BitVec 2
  data : Byte
  last : Bool
  deriving DecidableEq, Repr

/-- The kind code of a message (R77); `11` is never driven. -/
def OutMsg.kindCode : OutMsg → BitVec 2
  | .phy _ => 0b00#2
  | .eosOut => 0b01#2
  | .beam _ => 0b10#2

/-- The data bytes of a message (R77): the single byte of `EosOut` is 0. -/
def OutMsg.dataBytes : OutMsg → List Byte
  | .phy bytes => bytes
  | .eosOut => [0x00#8]
  | .beam t => [t]

/-- The transfers of a run of bytes of one kind, `out_last` on the final one (R76). -/
def transfersOf (kind : BitVec 2) : List Byte → List OutTransfer
  | [] => []
  | [b] => [⟨kind, b, true⟩]
  | b :: c :: rest => ⟨kind, b, false⟩ :: transfersOf kind (c :: rest)

/-- The transfers of one message (R77). -/
def OutMsg.transfers (m : OutMsg) : List OutTransfer := transfersOf m.kindCode m.dataBytes

/-- Everything that port `out` hands over, in order: messages never interleave (R76, R78). -/
def State.outTransfers (s : State) : List OutTransfer := s.out.flatMap OutMsg.transfers

/-- The pulses of port `err`: one code per event, in order (R79). -/
def State.errPulses (s : State) : List (BitVec 3) := s.err.map Err.code

end Sys2Proof.Machine
end

