-- ==== Sys2Proof/Machine/Trace.lean ====
section
/-! DEFINITION. The spec's text-trace commands and pseudo-commands as host input (spec/30_encoding.md R93, R94). -/

namespace Sys2Proof.Machine

/-- One input line of a trace (R93). -/
inductive TraceLine where
  /-- `reset <PBITS_RESET>` -/
  | reset (rstBits : Word)
  /-- `cfg <L>` -/
  | cfg (L : Word)
  /-- `eos` -/
  | eos
  /-- `bad` -/
  | bad
  /-- `blob <b0> <b1> ...` -/
  | blob (bytes : List Byte)
  deriving DecidableEq, Repr

/-- `frame <kk> <tt> : <p0> ...` (R94). -/
def TraceLine.frame (beams target : Byte) (payload : List Byte) : TraceLine :=
  .blob ([0x01#8, beams, target, 0x00#8, 0x00#8, 0x00#8, 0x00#8, 0x00#8] ++ payload)

/-- `other <mm> : <p0> ...` (R94). -/
def TraceLine.other (marker : Byte) (payload : List Byte) : TraceLine :=
  .blob ([marker, 0x00#8, 0x00#8, 0x00#8, 0x00#8, 0x00#8, 0x00#8, 0x00#8] ++ payload)

/-- `blobz <N>` (R94). -/
def TraceLine.blobz (n : Nat) : TraceLine := .blob (List.replicate n 0x00#8)

/-- The host move a line makes (30_encoding R74, R82). -/
def TraceLine.move : TraceLine → HostMove
  | .reset rstBits => .reset rstBits
  | .cfg L => .cfg 0b00#2 L
  | .eos => .ind 0b01#2 0#16
  | .bad => .ind 0b10#2 0#16
  | .blob bytes => .ind 0b00#2 (BitVec.ofNat 16 bytes.length)

/-- The bytes a line sends on `inb`. -/
def TraceLine.bytes : TraceLine → List Byte
  | .blob bytes => bytes
  | _ => []

/-- The state with a trace delivered by the host. -/
def State.deliver (trace : List TraceLine) (s : State) : State :=
  s.setInput (s.moves ++ trace.map TraceLine.move) (s.inb ++ trace.flatMap TraceLine.bytes)

end Sys2Proof.Machine
end

