-- ==== Sys2Proof/Safety.lean ====
section
/-! DEFINITION. What a safe run is (spec/60_exceptions.md R197, spec/70_reset_and_hazards.md R225) and the invariants
the spec gives the block's state (spec/10_state.md R26, R28 to R30; spec/30_encoding.md R80). -/

namespace Sys2Proof.Safety

open Sys2Proof.Machine

/-- A run is well-behaved when ERR is empty (R225): the premise, or conclusion, of a claim that is also meant of the
reference software (R197). -/
def WellBehaved (s : State) : Prop := s.err = []

/-- Both memories are in their canonical form and inside their 256 cells. -/
def MemoriesCanonical (s : State) : Prop := s.pbuf.wf = true ∧ s.scratch.wf = true

/-- 10_state R26: PSIZE, the preamble bytes and the SOF byte are those of PBITS, which is legal (R24). -/
def PreambleInPlace (s : State) : Prop :=
  s.pbits.toNat ≤ 2040 ∧ s.psize.toNat = ceil8 s.pbits.toNat ∧
    (∀ i, i < s.psize.toNat → s.pbuf.read i = some (preambleByte s.pbits.toNat s.psize.toNat i)) ∧
    s.pbuf.read s.psize.toNat = some 0xF0#8

/-- 10_state R29, R30: FAULT says whether an error was raised since reset, and ERRCODE is the code of the last one. -/
def ErrorsRecorded (s : State) : Prop :=
  s.fault = !s.err.isEmpty ∧ s.errcode = (s.err.getLast?.map Err.code).getD 0#3

/-- 60_exceptions R193 with 42_frame_processor R142: in Active no EosOut was emitted, in Closed exactly one, the last
message of OUT. -/
def EndOfStreamOnce (s : State) : Prop :=
  (s.done = false ∧ OutMsg.eosOut ∉ s.out) ∨
    (s.done = true ∧ ∃ before, s.out = before ++ [OutMsg.eosOut] ∧ OutMsg.eosOut ∉ before)

/-- The layout of a physical frame, 30_encoding R80: a preamble, the SOF byte, a payload, the pad byte. -/
def IsPhysicalFrame (bytes : List Byte) : Prop :=
  ∃ (L : Nat) (payload : List Byte), L ≤ 2040 ∧ ceil8 L + payload.length ≤ 245 ∧
    bytes = preambleBytes L ++ [0xF0#8] ++ payload ++ [0xAA#8]

/-- Every frame in OUT is laid out as R80 says. -/
def FramesWellFormed (s : State) : Prop := ∀ bytes, OutMsg.phy bytes ∈ s.out → IsPhysicalFrame bytes

/-- The memory holds these bytes, in ascending order, from an address on (00_scope R9). -/
def Holds (m : Mem) (a : Nat) (bytes : List Byte) : Prop := ∀ i, i < bytes.length → m.read (a + i) = bytes[i]?

/-- Every cell outside `[a, a + n)` reads in `m'` as it reads in `m`. -/
def SameOutside (m m' : Mem) (a n : Nat) : Prop := ∀ x, x < a ∨ a + n ≤ x → m'.read x = m.read x

/-- Two states that differ at most in what the spec calls hidden or write-only (10_state R23, R29, R30, R31, R34): SCRATCH,
BEAM_NODE, FAULT, ERRCODE, and PBUF above the SOF byte. -/
structure Indistinguishable (s s' : State) : Prop where
  left : PreambleInPlace s
  right : PreambleInPlace s'
  pbits : s.pbits = s'.pbits
  done : s.done = s'.done
  out : s.out = s'.out
  err : s.err = s'.err
  moves : s.moves = s'.moves
  inb : s.inb = s'.inb

/-- The invariant of the block. -/
structure Inv (s : State) : Prop where
  memories : MemoriesCanonical s
  preamble : PreambleInPlace s
  errors : ErrorsRecorded s
  endOfStream : EndOfStreamOnce s
  frames : FramesWellFormed s

end Sys2Proof.Safety
end

