-- ==== Sys2Proof/Certificates/Slice0/Obligations.lean ====
section
/-! DEFINITION. The statements for the provers. Each docstring names the rule of spec/ it formalises, or the sections it
rests on. `Holds`, `SameOutside` and the invariants are those of Safety.lean. -/

open Sys2Proof Sys2Proof.Machine Sys2Proof.Safety

/-! Reset and the host's moves. -/

/-- 10_state R38: what a reset event leaves, for every legal strap; cells the table calls unspecified hold no value. Of
BEAM_NODE nothing is said. -/
def Obligations.ResetEventLeavesTableValues : Prop :=
  ∀ (s : State) (strap : Word) (rest : List HostMove), s.moves = .reset strap :: rest → strap.toNat ≤ 2040 →
    ∃ t, step s = .next t ∧ t.pbits = strap ∧ t.psize.toNat = (strap.toNat + 7) / 8 ∧
      Holds t.pbuf 0 (preambleBytes strap.toNat) ∧ t.pbuf.read t.psize.toNat = some 0xF0#8 ∧
      (∀ a, t.psize.toNat < a → t.pbuf.read a = none) ∧ (∀ a, t.scratch.read a = none) ∧
      t.done = false ∧ t.fault = false ∧ t.errcode = 0#3 ∧ t.out = [] ∧ t.err = []

/-- 40_preamble_builder R109: a reset leaves the block as a `CFG` of the strap leaves a block whose PBUF held anything:
the same registers and sequences, and the same bytes up to the SOF byte. -/
def Obligations.ConstructionActsAsConfigure : Prop :=
  ∀ (s : State) (strap oldBits : Word) (oldSize : BitVec 8) (rest : List HostMove) (oldPbuf : Mem),
    s.moves = .reset strap :: rest → strap.toNat ≤ 2040 →
    ∃ t u, step s = .next t ∧
      exec (.cfg strap) { t with pbuf := oldPbuf, pbits := oldBits, psize := oldSize } = .next u ∧
      { u with pbuf := t.pbuf } = t ∧ ∀ a, a ≤ t.psize.toNat → u.pbuf.read a = t.pbuf.read a

/-- 70_reset_and_hazards R211: no instance exists for a strap above 2040; the model refuses the event. -/
def Obligations.StrapAboveRangeRefused : Prop :=
  ∀ (s : State) (strap : Word) (rest : List HostMove), s.moves = .reset strap :: rest → 2040 < strap.toNat →
    step s = .refused .strapOutOfRange

/-- The invariant holds at State.reset, whose strap is the model's choice (log 2). -/
def Obligations.ResetStateMeetsInvariant : Prop := Inv State.reset

/-- 00_scope R14: the block never acts on its own; with nothing offered it stays as it is (log 10). -/
def Obligations.IdleBlockStays : Prop := ∀ s : State, s.moves = [] → step s = .next s

/-- 30_encoding R70, R72, R85 with 10_state R36: a transfer whose dispatch word, operand and bytes decode to a command
is that command, executed on the state whose moves and bytes have advanced past it; of two offers at one edge the
descriptor stays offered. -/
def Obligations.StepRunsDecodedCommand : Prop :=
  ∀ (s : State) (kind : BitVec 2) (operand len : Word) (rest : List HostMove) (i : Instr) (left : List Byte),
    i.wf = true →
    (decodeD1 (dispatchWord 0#1 kind) len s.inb = .ok (i, left) → s.moves = .ind kind len :: rest →
      step s = exec i { s with moves := rest, inb := left }) ∧
    (decodeD1 (dispatchWord 1#1 kind) operand s.inb = .ok (i, left) → s.moves = .cfg kind operand :: rest →
      step s = exec i { s with moves := rest, inb := left }) ∧
    (decodeD1 (dispatchWord 1#1 kind) operand s.inb = .ok (i, left) → s.moves = .both operand kind len :: rest →
      step s = exec i { s with moves := .ind kind len :: rest, inb := left })

/-- 20_memory R57, 70_reset_and_hazards R217: two offers at one edge are served as a `CFG` and then the message. -/
def Obligations.ConfigurationPortServedFirst : Prop :=
  ∀ (s : State) (L : Word) (kind : BitVec 2) (len : Word) (rest : List HostMove),
    s.moves = .both L kind len :: rest →
    step s = step { s with moves := .cfg kind L :: .ind kind len :: rest } ∧
      step s = exec (.cfg L) { s with moves := .ind kind len :: rest }

/-- 30_encoding R73: whatever a `BLOB` ends in, exactly `ind_len` bytes are taken from `inb`; any other message takes
none. The step completes in every state whose preamble is in place. -/
def Obligations.BlobBytesDrainedWhateverOutcome : Prop :=
  ∀ (s : State) (kind : BitVec 2) (len : Word) (rest : List HostMove), PreambleInPlace s →
    s.moves = .ind kind len :: rest → (kind = 0#2 → len.toNat ≤ s.inb.length) →
    ∃ t, step s = .next t ∧ t.moves = rest ∧
      t.inb = if kind = 0#2 then s.inb.drop len.toNat else s.inb

/-- 93_implementation_defined U16: a `BLOB` whose bytes have not all been sent is stuck. -/
def Obligations.BlobWaitsForMissingBytes : Prop :=
  ∀ (s : State) (len : Word) (rest : List HostMove), s.moves = .ind 0#2 len :: rest → s.inb.length < len.toNat →
    step s = .fault .awaitingBlobBytes

/-- 30_encoding R89: the reserved kind 11, with any length, is a `BAD` message and raises BAD_SHAPE; in Closed it raises
CLOSED, as every message does (42_frame_processor R141). -/
def Obligations.ReservedKindRaisesBadShape : Prop :=
  ∀ (s : State) (len : Word) (rest : List HostMove), s.moves = .ind 0b11#2 len :: rest →
    (s.done = false →
      step s = .next { s with moves := rest, fault := true, errcode := 1#3, err := s.err ++ [.badShape] }) ∧
    (s.done = true →
      step s = .next { s with moves := rest, fault := true, errcode := 5#3, err := s.err ++ [.closed] })

/-- 30_encoding R93, R74: the one line of a trace, delivered to a block whose host offers nothing else, is the command
or the reset event it stands for. -/
def Obligations.DeliveredLineIsExecuted : Prop :=
  ∀ s : State, s.moves = [] → s.inb = [] →
    (∀ L, step (s.deliver [.cfg L]) = exec (.cfg L) s) ∧
    step (s.deliver [.eos]) = exec .eos s ∧
    step (s.deliver [.bad]) = exec .bad s ∧
    (∀ b, b.length < 65536 → step (s.deliver [.blob b]) = exec (.blob b) s) ∧
    (∀ strap : Word, strap.toNat ≤ 2040 → step (s.deliver [.reset strap]) = .next (State.afterReset strap [] []))

/-! The preamble bit-alignment engine and the offset calculator. -/

/-- 40_preamble_builder R100, R101: an accepted `CFG` writes PBITS, PSIZE, the preamble bytes and the SOF byte and
nothing else, in either lifecycle state; a refused one only raises CFG_RANGE. -/
def Obligations.CfgWritesPreambleOrRefuses : Prop :=
  ∀ (s : State) (L : Word),
    (L.toNat ≤ 2040 → ∃ t, exec (.cfg L) s = .next t ∧ t.pbits = L ∧ t.psize.toNat = (L.toNat + 7) / 8 ∧
      (∀ i, i < t.psize.toNat → t.pbuf.read i = some (preambleByte L.toNat t.psize.toNat i)) ∧
      t.pbuf.read t.psize.toNat = some 0xF0#8 ∧ (∀ a, t.psize.toNat < a → t.pbuf.read a = s.pbuf.read a) ∧
      t = { s with pbits := t.pbits, psize := t.psize, pbuf := t.pbuf }) ∧
    (2040 < L.toNat →
      exec (.cfg L) s = .next { s with fault := true, errcode := 6#3, err := s.err ++ [.cfgRange] })

/-- 40_preamble_builder R103: the closed form of the preamble bytes; the three-way test never takes its first branch. -/
def Obligations.PreambleBytesClosedForm : Prop :=
  ∀ L : Nat,
    preambleBytes L =
      (if L = 0 then []
       else if L % 8 = 0 then List.replicate ((L + 7) / 8) 0x55#8
       else (0x55#8 &&& BitVec.ofNat 8 (2 ^ (L % 8) - 1)) :: List.replicate ((L + 7) / 8 - 1) 0x55#8) ∧
    ∀ i, i < (L + 7) / 8 → ¬ L ≤ ((L + 7) / 8 - (i + 1)) * 8

/-- 40_preamble_builder R106: read most significant byte first, the preamble is the low `L` bits of the pattern
...01010101 with zeros above them, so it is right-aligned against the SOF byte, and ends in a 1 bit when `L` is not 0. -/
def Obligations.PreambleIsRightAligned : Prop :=
  ∀ L : Nat,
    (preambleBytes L).foldl (fun acc b => acc * 256 + b.toNat) 0 = ((2 ^ (8 * ((L + 7) / 8)) - 1) / 3) % 2 ^ L ∧
    (0 < L → ∃ b, (preambleBytes L).getLast? = some b ∧ b.getLsbD 0 = true)

/-- 95_test_vectors 2.1: configuring twice with the same length leaves the state of configuring once. -/
def Obligations.CfgTwiceIsCfgOnce : Prop :=
  ∀ (s : State) (L : Word), s.pbuf.wf = true → L.toNat ≤ 2040 →
    ∃ t, exec (.cfg L) s = .next t ∧ exec (.cfg L) t = .next t

/-- 41_offset_calculator R125, R126, R128, R129: the accepted lengths, and the bounds of every index a frame uses. -/
def Obligations.AcceptedLengthsBoundEveryIndex : Prop :=
  ∀ S dataLen : Nat, S ≤ 255 →
    (lenOk S dataLen = true ↔ 1 ≤ dataLen ∧ (dataLen : Int) ≤ 253 - S) ∧
    (lenOk S dataLen = true ↔ dataLen ≠ 0 ∧ (dataLen : Int) < lenLimit S) ∧
    (lenOk S dataLen = true → 8 ≤ dataLen → ∃ n, linkLen dataLen = some n ∧ n = dataLen - 8 ∧
      offPayload S ≤ offPad S n ∧ offPad S n ≤ 246 ∧ frameLen S n = offPad S n + 1 ∧ frameLen S n ≤ 247)

/-! The Frame Processor. -/

/-- 42_frame_processor R142: in Active, `EOS` emits one EosOut and closes the block, and changes nothing else; in Closed
it raises CLOSED. -/
def Obligations.EosClosesBlock : Prop :=
  ∀ s : State,
    (s.done = false → exec .eos s = .next { s with out := s.out ++ [.eosOut], done := true }) ∧
    (s.done = true → exec .eos s = .next { s with fault := true, errcode := 5#3, err := s.err ++ [.closed] })

/-- 42_frame_processor R143: in Active, `BAD` always raises BAD_SHAPE, and only FAULT, ERRCODE and ERR change. -/
def Obligations.BadRaisesBadShape : Prop :=
  ∀ s : State, s.done = false →
    exec .bad s = .next { s with fault := true, errcode := 1#3, err := s.err ++ [.badShape] }

/-- 42_frame_processor R141: in Closed, an inbound message of any kind raises CLOSED and changes nothing but FAULT,
ERRCODE and ERR; delivered at the ports, the bytes of a `BLOB` are drained with it. -/
def Obligations.ClosedBlockRefusesEveryMessage : Prop :=
  (∀ (s : State) (i : Instr), s.done = true → (i = .eos ∨ i = .bad ∨ ∃ b, i = .blob b) →
    exec i s = .next { s with fault := true, errcode := 5#3, err := s.err ++ [.closed] }) ∧
  ∀ (s : State) (kind : BitVec 2) (len : Word) (rest : List HostMove), s.done = true →
    s.moves = .ind kind len :: rest → (kind = 0#2 → len.toNat ≤ s.inb.length) →
    step s = .next { s with moves := rest, inb := if kind = 0#2 then s.inb.drop len.toNat else s.inb, fault := true,
                            errcode := 5#3, err := s.err ++ [.closed] }

/-- 42_frame_processor R145: the two length errors, in their order, and that nothing is copied; delivered at the ports,
the refused bytes are drained. -/
def Obligations.BlobLengthChecked : Prop :=
  (∀ (s : State) (b : List Byte), s.done = false →
    (b.length = 0 → exec (.blob b) s = .next { s with fault := true, errcode := 2#3, err := s.err ++ [.lenZero] }) ∧
    (b.length ≠ 0 → 254 ≤ b.length + s.psize.toNat →
      exec (.blob b) s = .next { s with fault := true, errcode := 3#3, err := s.err ++ [.lenOver] })) ∧
  ∀ (s : State) (len : Word) (rest : List HostMove), s.done = false → s.moves = .ind 0#2 len :: rest →
    len.toNat ≤ s.inb.length →
    (len.toNat = 0 →
      step s = .next { s with moves := rest, fault := true, errcode := 2#3, err := s.err ++ [.lenZero] }) ∧
    (len.toNat ≠ 0 → 254 ≤ len.toNat + s.psize.toNat →
      step s = .next { s with moves := rest, inb := s.inb.drop len.toNat, fault := true, errcode := 3#3,
                              err := s.err ++ [.lenOver] })

/-- 42_frame_processor R147: a `BLOB` that passes the length check is copied whole to SCRATCH from index 0, whatever
its marker, and no other cell of SCRATCH is written. -/
def Obligations.BlobCopiedToScratch : Prop :=
  ∀ (s : State) (b : List Byte), PreambleInPlace s → s.done = false → b ≠ [] → b.length + s.psize.toNat < 254 →
    ∃ t, exec (.blob b) s = .next t ∧ Holds t.scratch 0 b ∧ SameOutside s.scratch t.scratch 0 b.length

/-- 30_encoding R86: a `BLOB` that passes the length check goes on as the command its marker byte decodes to, `FRAME` for
0x01 and `DROP` for every other byte, on the state that holds the copy. -/
def Obligations.BlobGoesOnAsSecondStage : Prop :=
  ∀ (s : State) (m : Byte) (rest : List Byte), s.done = false → (m :: rest).length + s.psize.toNat < 254 →
    exec (.blob (m :: rest)) s =
      exec (decodeD2 m (m :: rest).length) { s with scratch := s.scratch.putList 0 (m :: rest) } ∧
    decodeD2 m (m :: rest).length = if m = 0x01#8 then .frame (m :: rest).length else .drop m

/-- 42_frame_processor R151: a blob of acceptable length whose marker is not 0x01 is dropped: only SCRATCH changes, and
the `DROP` it decodes to ends at once in every Active state, which is where a `BLOB` reaches it. -/
def Obligations.UnrecognisedBlobDropped : Prop :=
  ∀ (s : State) (m : Byte) (rest : List Byte), s.done = false → (m :: rest).length + s.psize.toNat < 254 →
    m ≠ 0x01#8 →
    ∃ t, exec (.blob (m :: rest)) s = .next t ∧ t = { s with scratch := t.scratch } ∧
      Holds t.scratch 0 (m :: rest) ∧ SameOutside s.scratch t.scratch 0 (m :: rest).length ∧
      ∀ u : State, u.done = false → exec (.drop m) u = .next u

/-- 60_exceptions R184: a recognised blob without a whole header raises SHORT_HDR with the blob already in SCRATCH;
nothing else changes. `FRAME`, the second stage by itself, raises it in every Active state. -/
def Obligations.ShortHeaderRaisedAfterCopy : Prop :=
  (∀ (s : State) (rest : List Byte), s.done = false → rest.length < 7 → rest.length + 1 + s.psize.toNat < 254 →
    ∃ t, exec (.blob (0x01#8 :: rest)) s = .next t ∧ Holds t.scratch 0 (0x01#8 :: rest) ∧
      SameOutside s.scratch t.scratch 0 (rest.length + 1) ∧
      t = { s with scratch := t.scratch, fault := true, errcode := 4#3, err := s.err ++ [.shortHdr] }) ∧
  ∀ (s : State) (dataLen : Nat), s.done = false → dataLen < 8 →
    exec (.frame dataLen) s = .next { s with fault := true, errcode := 4#3, err := s.err ++ [.shortHdr] }

/-- 42_frame_processor R154 to R156, with the beams of R153: in Active, where a `BLOB` reaches it, `FRAME` on a blob
`hdr ++ payload` in SCRATCH and a preamble `pre` (SOF byte included) in PBUF. The beams, all of one target, come strictly
before the one frame; the payload and the pad byte go behind the preamble; BEAM_NODE may change only when there are beams;
nothing else changes. -/
def Obligations.FrameEmitsBeamsThenFrame : Prop :=
  ∀ (s : State) (hdr payload pre : List Byte) (beams target : Byte),
    s.done = false → hdr.length = 8 → hdr[1]? = some beams → hdr[2]? = some target →
    Holds s.scratch 0 (hdr ++ payload) → pre.length = s.psize.toNat + 1 → Holds s.pbuf 0 pre → 8 + payload.length + s.psize.toNat < 254 →
    ∃ t, exec (.frame (8 + payload.length)) s = .next t ∧
      t.out = s.out ++ List.replicate beams.toNat (.beam target) ++ [.phy (pre ++ payload ++ [0xAA#8])] ∧
      Holds t.pbuf (s.psize.toNat + 1) (payload ++ [0xAA#8]) ∧
      SameOutside s.pbuf t.pbuf (s.psize.toNat + 1) (payload.length + 1) ∧
      (beams = 0#8 → t.beamNode = s.beamNode) ∧
      t = { s with out := t.out, pbuf := t.pbuf, beamNode := t.beamNode }

/-- 42_frame_processor R157, R153: the closed form of a recognised `BLOB`'s output and its whole frame condition, in every
Active state whose preamble is in place. That BEAM_NODE still holds the target after the command is the model's (log 6). -/
def Obligations.RecognisedBlobClosedForm : Prop :=
  ∀ (s : State) (beams target h3 h4 h5 h6 h7 : Byte) (payload : List Byte),
    PreambleInPlace s → s.done = false → 8 + payload.length + s.psize.toNat < 254 →
    ∃ t, exec (.blob ([0x01#8, beams, target, h3, h4, h5, h6, h7] ++ payload)) s = .next t ∧
      t.out = s.out ++ List.replicate beams.toNat (.beam target) ++
        [.phy (preambleBytes s.pbits.toNat ++ [0xF0#8] ++ payload ++ [0xAA#8])] ∧
      SameOutside s.scratch t.scratch 0 (8 + payload.length) ∧
      SameOutside s.pbuf t.pbuf (s.psize.toNat + 1) (payload.length + 1) ∧
      t.beamNode = (if beams = 0#8 then s.beamNode else target) ∧
      t = { s with out := t.out, scratch := t.scratch, pbuf := t.pbuf, beamNode := t.beamNode }

/-- 20_memory R58, 40_preamble_builder R105, R108: a `CFG` governs the message after it. From any Active state, with any
content of PBUF, the frame that follows `CFG L` carries the preamble of `L`; with `L = 0` it starts with the SOF byte. -/
def Obligations.ConfigureGovernsNextFrame : Prop :=
  ∀ (s : State) (L : Word) (beams target h3 h4 h5 h6 h7 : Byte) (payload : List Byte),
    s.done = false → 8 + payload.length + (L.toNat + 7) / 8 < 254 →
    ∃ t u, exec (.cfg L) s = .next t ∧
      exec (.blob ([0x01#8, beams, target, h3, h4, h5, h6, h7] ++ payload)) t = .next u ∧ u.err = s.err ∧
      u.out = s.out ++ List.replicate beams.toNat (.beam target) ++
        [.phy (preambleBytes L.toNat ++ [0xF0#8] ++ payload ++ [0xAA#8])] ∧
      (L = 0#16 → u.out.getLast? = some (.phy (0xF0#8 :: payload ++ [0xAA#8])))

/-- 42_frame_processor R140: the outcome of one inbound message is exactly one of four, and every inbound message has
one. -/
def Obligations.MessageHasOneOutcome : Prop :=
  ∀ (s : State) (i : Instr), PreambleInPlace s → (i = .eos ∨ i = .bad ∨ ∃ b, i = .blob b) →
    ∃ t, exec i s = .next t ∧
      ((t.out = s.out ++ [.eosOut] ∧ t.err = s.err ∧ s.done = false ∧ t.done = true) ∨
       (t.out = s.out ∧ t.err = s.err ∧ t.done = s.done) ∨
       (∃ k target bytes, t.out = s.out ++ List.replicate k (.beam target) ++ [.phy bytes] ∧ t.err = s.err ∧
          t.done = s.done) ∨
       (∃ e, t.out = s.out ∧ t.err = s.err ++ [e] ∧ t.done = s.done))

/-- 60_exceptions R188: a command raises the first error whose test fails in the spec's order, and no other. -/
def Obligations.FirstFailingTestIsRaised : Prop :=
  ∀ s : State, PreambleInPlace s →
    (∀ L, ∃ t, exec (.cfg L) s = .next t ∧ t.err = s.err ++ (if 2040 < L.toNat then [.cfgRange] else [])) ∧
    (∃ t, exec .eos s = .next t ∧ t.err = s.err ++ (if s.done = true then [.closed] else [])) ∧
    (∃ t, exec .bad s = .next t ∧ t.err = s.err ++ (if s.done = true then [.closed] else [.badShape])) ∧
    (∀ b, ∃ t, exec (.blob b) s = .next t ∧ t.err = s.err ++
      (if s.done = true then [.closed]
       else if b.length = 0 then [.lenZero]
       else if 254 ≤ b.length + s.psize.toNat then [.lenOver]
       else if b[0]? = some 0x01#8 ∧ b.length < 8 then [.shortHdr]
       else []))

/-! Invariants that every step keeps, and rules of the whole machine. -/

/-- Every step keeps both memories in their canonical form (20_memory R50, R62). -/
def Obligations.StepKeepsMemoriesCanonical : Prop :=
  ∀ s t : State, MemoriesCanonical s → step s = .next t → MemoriesCanonical t

/-- 10_state R26: every step keeps PSIZE, the preamble bytes and the SOF byte those of PBITS. -/
def Obligations.StepKeepsPreambleInPlace : Prop :=
  ∀ s t : State, PreambleInPlace s → step s = .next t → PreambleInPlace t

/-- 10_state R29, R30: FAULT and ERRCODE stay the record of ERR. -/
def Obligations.StepKeepsErrorsRecorded : Prop :=
  ∀ s t : State, ErrorsRecorded s → step s = .next t → ErrorsRecorded t

/-- 95_test_vectors section 4 with 42_frame_processor R141, R142: OUT holds at most one EosOut, as its last element, and
one exactly in Closed. -/
def Obligations.StepKeepsEndOfStreamOnce : Prop :=
  ∀ s t : State, EndOfStreamOnce s → step s = .next t → EndOfStreamOnce t

/-- The whole invariant is kept by every step, from every state that meets it: memories, preamble, error record,
lifecycle, and the layout of every frame ever emitted (30_encoding R80). -/
def Obligations.StepKeepsInvariant : Prop :=
  ∀ s t : State, Inv s → step s = .next t → Inv t

/-- 20_memory R62, 10_state R23: with the preamble in place no step reads a cell without value or computes an index
outside a memory; a step stops only for missing blob bytes or a strap out of range. -/
def Obligations.StepStopsOnlyForTheHost : Prop :=
  ∀ s : State, PreambleInPlace s →
    (∀ f, step s = .fault f → f = .awaitingBlobBytes) ∧ (∀ r, step s = .refused r → r = .strapOutOfRange)

/-- 10_state R23, R29, R31, R34: SCRATCH, BEAM_NODE, FAULT, ERRCODE and the stale bytes of PBUF are hidden: two states
that differ only in them take the same step, emit the same messages and errors, and stay so. -/
def Obligations.HiddenStateIsNeverObserved : Prop :=
  ∀ s s' : State, Indistinguishable s s' →
    (∀ t, step s = .next t → ∃ t', step s' = .next t' ∧ Indistinguishable t t') ∧
    (∀ f, step s = .fault f → step s' = .fault f) ∧ (∀ r, step s = .refused r → step s' = .refused r)

/-- 10_state R29: FAULT (with ERRCODE) is sticky, and no command reads it. -/
def Obligations.FaultFlagStickyAndUnread : Prop :=
  ∀ (i : Instr) (s t : State) (flag : Bool) (code : BitVec 3), exec i s = .next t →
    (s.fault = true → t.fault = true) ∧
    (∃ t', exec i { s with fault := flag, errcode := code } = .next t' ∧
      { t' with fault := t.fault, errcode := t.errcode } = t) ∧
    (t.err ≠ s.err → t.fault = true ∧ (t.err.getLast?).map Err.code = some t.errcode) ∧
    (t.err = s.err → t.fault = s.fault ∧ t.errcode = s.errcode)

/-- 60_exceptions R193: reset enters Active, the first `EOS` enters Closed, and nothing but reset leaves it. -/
def Obligations.LifecycleTransitions : Prop :=
  ∀ s t : State, step s = .next t →
    (∀ u, fetch s = .event u → t.done = false) ∧
    (∀ i u, fetch s = .command i u → (t.done = true ↔ s.done = true ∨ i = .eos))

/-- 30_encoding R78, 20_memory R61: but for a reset, OUT and ERR only grow at their end, and one step never adds to
both. -/
def Obligations.OutputsOnlyAppended : Prop :=
  ∀ s t : State, step s = .next t → (∀ u, fetch s ≠ .event u) →
    ∃ msgs errs, t.out = s.out ++ msgs ∧ t.err = s.err ++ errs ∧ errs.length ≤ 1 ∧ (errs = [] ∨ msgs = [])

/-! Encoding and ports. -/

/-- 30_encoding R82, R85, R86: decoding the words of a well-formed command gives it back, and leaves the bytes behind
it. -/
def Obligations.DecodeOfEncodeIsIdentity : Prop :=
  ∀ (i : Instr) (rest : List Byte), i.wf = true → decode (encode i) rest = .ok (i, rest)

/-- 30_encoding R85 to R87: each value of either dispatch word selects exactly one row of the opcode map, and it is the
row of the command the decoder gives. -/
def Obligations.EveryDispatchWordSelectsOneRow : Prop :=
  (∀ (w : BitVec 3) (operand : Word) (inb left : List Byte) (i : Instr), decodeD1 w operand inb = .ok (i, left) →
    (selectedRows .d1 w.toNat).map OpcodeRow.mnemonic = [i.mnemonic]) ∧
  (∀ (w : Byte) (dataLen : Nat),
    (selectedRows .d2 w.toNat).map OpcodeRow.mnemonic = [(decodeD2 w dataLen).mnemonic])

/-- Words written out from the tables of 30_encoding R85 and R86 decode to the commands they stand for (a sanity
statement on a few words). -/
def Obligations.WrittenOutWordsDecode : Prop :=
  decode (.d1 0b100#3 0x0019#16 []) [] = .ok (.cfg 25, []) ∧
  decode (.d1 0b000#3 0x0003#16 [0x01, 0x05, 0x07]) [0x99] = .ok (.blob [0x01, 0x05, 0x07], [0x99]) ∧
  decode (.d1 0b001#3 0xFFFF#16 []) [] = .ok (.eos, []) ∧
  decode (.d1 0b011#3 0x0002#16 []) [] = .ok (.bad, []) ∧
  decode (.d2 0b00000001#8 0x000B#16) [] = .ok (.frame 11, []) ∧
  decode (.d2 0b01111111#8 0x000A#16) [] = .ok (.drop 0x7F, [])

/-- 30_encoding R77: the transfers of each message on port `out`, `out_last` on the final one only; kind 11 is never
driven; a frame that a block meeting the invariant emitted has at least two bytes. -/
def Obligations.OutboundTransfers : Prop :=
  (∀ (init : List Byte) (final : Byte), (OutMsg.phy (init ++ [final])).transfers =
    init.map (fun b => ⟨0b00#2, b, false⟩) ++ [⟨0b00#2, final, true⟩]) ∧
  OutMsg.eosOut.transfers = [⟨0b01#2, 0x00#8, true⟩] ∧
  (∀ t, (OutMsg.beam t).transfers = [⟨0b10#2, t, true⟩]) ∧
  (∀ m : OutMsg, ∀ x ∈ m.transfers, x.kind ≠ 0b11#2) ∧
  (∀ (s : State) (bytes : List Byte), FramesWellFormed s → OutMsg.phy bytes ∈ s.out → 2 ≤ bytes.length)
end

