-- ==== Sys2Proof/Laws/Config.lean ====
section
/-! SUPPORT. The literals of the configuration record, and what the offset calculator computes with them. -/

namespace Sys2Proof.Machine

@[simp] theorem config_pattern : config.pattern = 0x55#8 := rfl
@[simp] theorem config_sof : config.sof = 0xF0#8 := rfl
@[simp] theorem config_pad : config.pad = 0xAA#8 := rfl
@[simp] theorem config_marker : config.marker = 0x01#8 := rfl
@[simp] theorem config_headerLen : config.headerLen = 8 := rfl
@[simp] theorem config_work : config.work = 256 := rfl
@[simp] theorem config_cap : config.cap = 256 := rfl
@[simp] theorem lMax_eq : lMax = 2040 := rfl

theorem ceil8_eq_div (L : Nat) : ceil8 L = (L + 7) / 8 := by
  unfold ceil8; split <;> omega

theorem ceil8_le_255 {L : Nat} (h : L ≤ 2040) : ceil8 L ≤ 255 := by
  rw [ceil8_eq_div]; omega

@[simp] theorem lenOver_iff (S d : Nat) : lenOver S d = true ↔ 254 ≤ d + S := decide_eq_true_iff

@[simp] theorem lenOver_eq_false_iff (S d : Nat) : lenOver S d = false ↔ d + S < 254 :=
  decide_eq_false_iff_not.trans Nat.not_le

theorem lenOk_iff (S d : Nat) : lenOk S d = true ↔ d ≠ 0 ∧ d + S < 254 := by
  simp only [lenOk, Bool.and_eq_true, decide_eq_true_eq, Bool.not_eq_true', lenOver_eq_false_iff]

theorem linkLen_of_le {d : Nat} (h : 8 ≤ d) : linkLen d = some (d - 8) := by
  simp [linkLen, h]

theorem linkLen_of_lt {d : Nat} (h : d < 8) : linkLen d = none :=
  if_neg (by simp; omega)

end Sys2Proof.Machine
end

