-- ==== Sys2Proof/Laws/Mem.lean ====
section
/-! SUPPORT. The laws of a byte memory: what a read finds after a write, and that every write keeps the canonical
form. -/

namespace Sys2Proof.Machine

@[simp] theorem Mem.read_nil (a : Nat) : Mem.read [] a = none := rfl

@[simp] theorem Mem.read_cons (k : Nat) (w : Byte) (rest : Mem) (a : Nat) :
    Mem.read ((k, w) :: rest) a = if k = a then some w else Mem.read rest a := rfl

theorem Mem.read_put (m : Mem) (a b : Nat) (v : Byte) :
    (m.put a v).read b = if a = b then some v else m.read b := by
  induction m with
  | nil => simp [Mem.put]
  | cons c rest ih =>
    obtain ⟨k, w⟩ := c
    unfold Mem.put
    split
    · simp
    · split
      · subst k; by_cases h : a = b <;> simp [h]
      · by_cases hk : k = b
        · subst k; simp; omega
        · simp [hk, ih]

@[simp] theorem Mem.read_put_same (m : Mem) (a : Nat) (v : Byte) : (m.put a v).read a = some v := by
  simp [Mem.read_put]

theorem Mem.read_put_other (m : Mem) {a b : Nat} (v : Byte) (h : b ≠ a) : (m.put a v).read b = m.read b := by
  simp [Mem.read_put, h.symm]

/-- What a read finds after a list was written from `a`: the list inside its range, the old byte outside. -/
theorem Mem.read_putList (m : Mem) (a b : Nat) (vs : List Byte) :
    (m.putList a vs).read b = if a ≤ b ∧ b < a + vs.length then vs[b - a]? else m.read b := by
  induction vs generalizing m a with
  | nil => simp [Mem.putList]
  | cons v vs ih =>
    rw [Mem.putList, ih, Mem.read_put]
    by_cases h1 : a = b
    · subst h1; simp
    · by_cases h2 : a ≤ b ∧ b < a + (v :: vs).length
      · have h3 : a + 1 ≤ b ∧ b < a + 1 + vs.length := by simp at h2; omega
        have h4 : b - a = (b - (a + 1)) + 1 := by omega
        rw [if_pos h3, if_pos h2, h4]; simp
      · have h3 : ¬(a + 1 ≤ b ∧ b < a + 1 + vs.length) := by simp at h2; omega
        rw [if_neg h3, if_neg h2, if_neg h1]

theorem Mem.wfFrom_mono {lo lo' : Nat} (h : lo' ≤ lo) {m : Mem} (hm : m.wfFrom lo = true) : m.wfFrom lo' = true := by
  cases m with
  | nil => rfl
  | cons c rest =>
    obtain ⟨k, w⟩ := c
    simp only [Mem.wfFrom, Bool.and_eq_true, decide_eq_true_eq] at hm ⊢
    exact ⟨⟨by omega, hm.1.2⟩, hm.2⟩

theorem Mem.wfFrom_put {lo a : Nat} (hlo : lo ≤ a) (ha : a < 256) (v : Byte) {m : Mem} (hm : m.wfFrom lo = true) :
    (m.put a v).wfFrom lo = true := by
  induction m generalizing lo with
  | nil => simp [Mem.put, Mem.wfFrom, hlo, ha]
  | cons c rest ih =>
    obtain ⟨k, w⟩ := c
    simp only [Mem.wfFrom, Bool.and_eq_true, decide_eq_true_eq, config_cap] at hm
    obtain ⟨⟨h1, h2⟩, h3⟩ := hm
    unfold Mem.put
    split
    · simp [Mem.wfFrom, hlo, ha, h2, h3]; omega
    · split
      · subst k; simp [Mem.wfFrom, hlo, ha, h3]
      · simp [Mem.wfFrom, h1, h2]; exact ih (by omega) h3

/-- Every write inside the memory keeps the canonical form. -/
theorem Mem.wf_put {m : Mem} (hm : m.wf = true) {a : Nat} (ha : a < 256) (v : Byte) : (m.put a v).wf = true :=
  Mem.wfFrom_put (Nat.zero_le a) ha v hm

theorem Mem.wf_putList {m : Mem} (hm : m.wf = true) {a : Nat} {vs : List Byte} (ha : a + vs.length ≤ 256) :
    (m.putList a vs).wf = true := by
  induction vs generalizing m a with
  | nil => exact hm
  | cons v vs ih =>
    simp only [List.length_cons] at ha
    exact ih (Mem.wf_put hm (by omega) v) (by omega)

theorem Mem.read_eq_none_of_wfFrom {lo a : Nat} (h : a < lo) {m : Mem} (hm : m.wfFrom lo = true) : m.read a = none := by
  induction m generalizing lo with
  | nil => rfl
  | cons c rest ih =>
    obtain ⟨k, w⟩ := c
    simp only [Mem.wfFrom, Bool.and_eq_true, decide_eq_true_eq] at hm
    have hk : k ≠ a := by omega
    simp [hk]; exact ih (by omega) hm.2

/-- Two canonical memories that read alike are the same data. -/
theorem Mem.ext_of_read {m m' : Mem} (h : m.wf = true) (h' : m'.wf = true) (hr : ∀ a, m.read a = m'.read a) : m = m' := by
  suffices H : ∀ lo, m.wfFrom lo = true → m'.wfFrom lo = true → m = m' from H 0 h h'
  clear h h'
  induction m generalizing m' with
  | nil =>
    intro lo _ h'
    cases m' with
    | nil => rfl
    | cons c rest => obtain ⟨k, w⟩ := c; have := hr k; simp at this
  | cons c rest ih =>
    intro lo h h'
    cases m' with
    | nil => obtain ⟨k, w⟩ := c; have := hr k; simp at this
    | cons c' rest' =>
      obtain ⟨k, w⟩ := c
      obtain ⟨k', w'⟩ := c'
      simp only [Mem.wfFrom, Bool.and_eq_true, decide_eq_true_eq] at h h'
      have hk : k = k' := by
        rcases Nat.lt_trichotomy k k' with hlt | heq | hgt
        · have h1 := hr k
          have h2 := Mem.read_eq_none_of_wfFrom (by omega : k < k' + 1) h'.2
          simp [Nat.ne_of_gt hlt, h2] at h1
        · exact heq
        · have h1 := hr k'
          have h2 := Mem.read_eq_none_of_wfFrom (by omega : k' < k + 1) h.2
          simp [Nat.ne_of_gt hgt, h2] at h1
      subst k'
      have hw := hr k
      simp at hw
      subst w'
      rw [ih (fun a => ?_) (k + 1) h.2 h'.2]
      by_cases ha : a < k + 1
      · rw [Mem.read_eq_none_of_wfFrom ha h.2, Mem.read_eq_none_of_wfFrom ha h'.2]
      · have := hr a
        have hka : k ≠ a := by omega
        simpa [hka] using this

end Sys2Proof.Machine
end

