-- ==== Sys2Proof/Laws/Preamble.lean ====
section
/-! SUPPORT. The preamble as a list, and the buffer that construction leaves. -/

namespace Sys2Proof.Machine

@[simp] theorem preambleBytes_length (L : Nat) : (preambleBytes L).length = ceil8 L := by
  simp [preambleBytes]

theorem preambleBytes_getElem? (L i : Nat) :
    (preambleBytes L)[i]? = if i < ceil8 L then some (preambleByte L (ceil8 L) i) else none := by
  unfold preambleBytes
  by_cases h : i < ceil8 L <;> simp [h]

/-- The reads of a buffer on which a preamble and its SOF byte have been written. -/
theorem read_preamble_sof (m : Mem) (L b : Nat) :
    ((m.putList 0 (preambleBytes L)).putList (ceil8 L) [0xF0#8]).read b =
      if b < ceil8 L then some (preambleByte L (ceil8 L) b) else if b = ceil8 L then some 0xF0#8 else m.read b := by
  simp only [Mem.putList, Mem.read_put, Mem.read_putList, preambleBytes_length, preambleBytes_getElem?]
  by_cases h1 : ceil8 L = b
  · simp [h1]
  · by_cases h2 : b < ceil8 L <;> simp [h1, h2, Ne.symm h1]

theorem constructedPbuf_eq (L : Nat) :
    constructedPbuf L = (Mem.putList [] 0 (preambleBytes L)).putList (ceil8 L) [0xF0#8] := rfl

theorem constructedPbuf_wf {L : Nat} (h : L ≤ 2040) : (constructedPbuf L).wf = true := by
  have := ceil8_le_255 h
  exact Mem.wf_put (Mem.wf_putList rfl (by simp; omega)) (by simp [offSof]; omega) _

end Sys2Proof.Machine
end

