-- ==== Sys2Proof/Laws/State.lean ====
section
/-! SUPPORT. One lemma per field per update of the state, each true by definition. -/

namespace Sys2Proof.Machine

@[simp] theorem State.recordError_pbuf (e : Err) (s : State) : (s.recordError e).pbuf = s.pbuf := rfl
@[simp] theorem State.recordError_scratch (e : Err) (s : State) : (s.recordError e).scratch = s.scratch := rfl
@[simp] theorem State.recordError_pbits (e : Err) (s : State) : (s.recordError e).pbits = s.pbits := rfl
@[simp] theorem State.recordError_psize (e : Err) (s : State) : (s.recordError e).psize = s.psize := rfl
@[simp] theorem State.recordError_done (e : Err) (s : State) : (s.recordError e).done = s.done := rfl
@[simp] theorem State.recordError_fault (e : Err) (s : State) : (s.recordError e).fault = true := rfl
@[simp] theorem State.recordError_errcode (e : Err) (s : State) : (s.recordError e).errcode = e.code := rfl
@[simp] theorem State.recordError_beamNode (e : Err) (s : State) : (s.recordError e).beamNode = s.beamNode := rfl
@[simp] theorem State.recordError_out (e : Err) (s : State) : (s.recordError e).out = s.out := rfl
@[simp] theorem State.recordError_err (e : Err) (s : State) : (s.recordError e).err = s.err := rfl
@[simp] theorem State.recordError_moves (e : Err) (s : State) : (s.recordError e).moves = s.moves := rfl
@[simp] theorem State.recordError_inb (e : Err) (s : State) : (s.recordError e).inb = s.inb := rfl

@[simp] theorem State.close_pbuf (s : State) : (s.close).pbuf = s.pbuf := rfl
@[simp] theorem State.close_scratch (s : State) : (s.close).scratch = s.scratch := rfl
@[simp] theorem State.close_pbits (s : State) : (s.close).pbits = s.pbits := rfl
@[simp] theorem State.close_psize (s : State) : (s.close).psize = s.psize := rfl
@[simp] theorem State.close_done (s : State) : (s.close).done = true := rfl
@[simp] theorem State.close_fault (s : State) : (s.close).fault = s.fault := rfl
@[simp] theorem State.close_errcode (s : State) : (s.close).errcode = s.errcode := rfl
@[simp] theorem State.close_beamNode (s : State) : (s.close).beamNode = s.beamNode := rfl
@[simp] theorem State.close_out (s : State) : (s.close).out = s.out := rfl
@[simp] theorem State.close_err (s : State) : (s.close).err = s.err := rfl
@[simp] theorem State.close_moves (s : State) : (s.close).moves = s.moves := rfl
@[simp] theorem State.close_inb (s : State) : (s.close).inb = s.inb := rfl

@[simp] theorem State.setPbuf_pbuf (m : Mem) (s : State) : (s.setPbuf m).pbuf = m := rfl
@[simp] theorem State.setPbuf_scratch (m : Mem) (s : State) : (s.setPbuf m).scratch = s.scratch := rfl
@[simp] theorem State.setPbuf_pbits (m : Mem) (s : State) : (s.setPbuf m).pbits = s.pbits := rfl
@[simp] theorem State.setPbuf_psize (m : Mem) (s : State) : (s.setPbuf m).psize = s.psize := rfl
@[simp] theorem State.setPbuf_done (m : Mem) (s : State) : (s.setPbuf m).done = s.done := rfl
@[simp] theorem State.setPbuf_fault (m : Mem) (s : State) : (s.setPbuf m).fault = s.fault := rfl
@[simp] theorem State.setPbuf_errcode (m : Mem) (s : State) : (s.setPbuf m).errcode = s.errcode := rfl
@[simp] theorem State.setPbuf_beamNode (m : Mem) (s : State) : (s.setPbuf m).beamNode = s.beamNode := rfl
@[simp] theorem State.setPbuf_out (m : Mem) (s : State) : (s.setPbuf m).out = s.out := rfl
@[simp] theorem State.setPbuf_err (m : Mem) (s : State) : (s.setPbuf m).err = s.err := rfl
@[simp] theorem State.setPbuf_moves (m : Mem) (s : State) : (s.setPbuf m).moves = s.moves := rfl
@[simp] theorem State.setPbuf_inb (m : Mem) (s : State) : (s.setPbuf m).inb = s.inb := rfl

@[simp] theorem State.setScratch_pbuf (m : Mem) (s : State) : (s.setScratch m).pbuf = s.pbuf := rfl
@[simp] theorem State.setScratch_scratch (m : Mem) (s : State) : (s.setScratch m).scratch = m := rfl
@[simp] theorem State.setScratch_pbits (m : Mem) (s : State) : (s.setScratch m).pbits = s.pbits := rfl
@[simp] theorem State.setScratch_psize (m : Mem) (s : State) : (s.setScratch m).psize = s.psize := rfl
@[simp] theorem State.setScratch_done (m : Mem) (s : State) : (s.setScratch m).done = s.done := rfl
@[simp] theorem State.setScratch_fault (m : Mem) (s : State) : (s.setScratch m).fault = s.fault := rfl
@[simp] theorem State.setScratch_errcode (m : Mem) (s : State) : (s.setScratch m).errcode = s.errcode := rfl
@[simp] theorem State.setScratch_beamNode (m : Mem) (s : State) : (s.setScratch m).beamNode = s.beamNode := rfl
@[simp] theorem State.setScratch_out (m : Mem) (s : State) : (s.setScratch m).out = s.out := rfl
@[simp] theorem State.setScratch_err (m : Mem) (s : State) : (s.setScratch m).err = s.err := rfl
@[simp] theorem State.setScratch_moves (m : Mem) (s : State) : (s.setScratch m).moves = s.moves := rfl
@[simp] theorem State.setScratch_inb (m : Mem) (s : State) : (s.setScratch m).inb = s.inb := rfl

@[simp] theorem State.setConfig_pbuf (L : Word) (S : BitVec 8) (s : State) : (s.setConfig L S).pbuf = s.pbuf := rfl
@[simp] theorem State.setConfig_scratch (L : Word) (S : BitVec 8) (s : State) : (s.setConfig L S).scratch = s.scratch := rfl
@[simp] theorem State.setConfig_pbits (L : Word) (S : BitVec 8) (s : State) : (s.setConfig L S).pbits = L := rfl
@[simp] theorem State.setConfig_psize (L : Word) (S : BitVec 8) (s : State) : (s.setConfig L S).psize = S := rfl
@[simp] theorem State.setConfig_done (L : Word) (S : BitVec 8) (s : State) : (s.setConfig L S).done = s.done := rfl
@[simp] theorem State.setConfig_fault (L : Word) (S : BitVec 8) (s : State) : (s.setConfig L S).fault = s.fault := rfl
@[simp] theorem State.setConfig_errcode (L : Word) (S : BitVec 8) (s : State) : (s.setConfig L S).errcode = s.errcode := rfl
@[simp] theorem State.setConfig_beamNode (L : Word) (S : BitVec 8) (s : State) : (s.setConfig L S).beamNode = s.beamNode := rfl
@[simp] theorem State.setConfig_out (L : Word) (S : BitVec 8) (s : State) : (s.setConfig L S).out = s.out := rfl
@[simp] theorem State.setConfig_err (L : Word) (S : BitVec 8) (s : State) : (s.setConfig L S).err = s.err := rfl
@[simp] theorem State.setConfig_moves (L : Word) (S : BitVec 8) (s : State) : (s.setConfig L S).moves = s.moves := rfl
@[simp] theorem State.setConfig_inb (L : Word) (S : BitVec 8) (s : State) : (s.setConfig L S).inb = s.inb := rfl

@[simp] theorem State.loadBeam_pbuf (t : Byte) (s : State) : (s.loadBeam t).pbuf = s.pbuf := rfl
@[simp] theorem State.loadBeam_scratch (t : Byte) (s : State) : (s.loadBeam t).scratch = s.scratch := rfl
@[simp] theorem State.loadBeam_pbits (t : Byte) (s : State) : (s.loadBeam t).pbits = s.pbits := rfl
@[simp] theorem State.loadBeam_psize (t : Byte) (s : State) : (s.loadBeam t).psize = s.psize := rfl
@[simp] theorem State.loadBeam_done (t : Byte) (s : State) : (s.loadBeam t).done = s.done := rfl
@[simp] theorem State.loadBeam_fault (t : Byte) (s : State) : (s.loadBeam t).fault = s.fault := rfl
@[simp] theorem State.loadBeam_errcode (t : Byte) (s : State) : (s.loadBeam t).errcode = s.errcode := rfl
@[simp] theorem State.loadBeam_beamNode (t : Byte) (s : State) : (s.loadBeam t).beamNode = t := rfl
@[simp] theorem State.loadBeam_out (t : Byte) (s : State) : (s.loadBeam t).out = s.out := rfl
@[simp] theorem State.loadBeam_err (t : Byte) (s : State) : (s.loadBeam t).err = s.err := rfl
@[simp] theorem State.loadBeam_moves (t : Byte) (s : State) : (s.loadBeam t).moves = s.moves := rfl
@[simp] theorem State.loadBeam_inb (t : Byte) (s : State) : (s.loadBeam t).inb = s.inb := rfl

@[simp] theorem State.emit_pbuf (m : OutMsg) (s : State) : (s.emit m).pbuf = s.pbuf := rfl
@[simp] theorem State.emit_scratch (m : OutMsg) (s : State) : (s.emit m).scratch = s.scratch := rfl
@[simp] theorem State.emit_pbits (m : OutMsg) (s : State) : (s.emit m).pbits = s.pbits := rfl
@[simp] theorem State.emit_psize (m : OutMsg) (s : State) : (s.emit m).psize = s.psize := rfl
@[simp] theorem State.emit_done (m : OutMsg) (s : State) : (s.emit m).done = s.done := rfl
@[simp] theorem State.emit_fault (m : OutMsg) (s : State) : (s.emit m).fault = s.fault := rfl
@[simp] theorem State.emit_errcode (m : OutMsg) (s : State) : (s.emit m).errcode = s.errcode := rfl
@[simp] theorem State.emit_beamNode (m : OutMsg) (s : State) : (s.emit m).beamNode = s.beamNode := rfl
@[simp] theorem State.emit_out (m : OutMsg) (s : State) : (s.emit m).out = s.out ++ [m] := rfl
@[simp] theorem State.emit_err (m : OutMsg) (s : State) : (s.emit m).err = s.err := rfl
@[simp] theorem State.emit_moves (m : OutMsg) (s : State) : (s.emit m).moves = s.moves := rfl
@[simp] theorem State.emit_inb (m : OutMsg) (s : State) : (s.emit m).inb = s.inb := rfl

@[simp] theorem State.logErr_pbuf (e : Err) (s : State) : (s.logErr e).pbuf = s.pbuf := rfl
@[simp] theorem State.logErr_scratch (e : Err) (s : State) : (s.logErr e).scratch = s.scratch := rfl
@[simp] theorem State.logErr_pbits (e : Err) (s : State) : (s.logErr e).pbits = s.pbits := rfl
@[simp] theorem State.logErr_psize (e : Err) (s : State) : (s.logErr e).psize = s.psize := rfl
@[simp] theorem State.logErr_done (e : Err) (s : State) : (s.logErr e).done = s.done := rfl
@[simp] theorem State.logErr_fault (e : Err) (s : State) : (s.logErr e).fault = s.fault := rfl
@[simp] theorem State.logErr_errcode (e : Err) (s : State) : (s.logErr e).errcode = s.errcode := rfl
@[simp] theorem State.logErr_beamNode (e : Err) (s : State) : (s.logErr e).beamNode = s.beamNode := rfl
@[simp] theorem State.logErr_out (e : Err) (s : State) : (s.logErr e).out = s.out := rfl
@[simp] theorem State.logErr_err (e : Err) (s : State) : (s.logErr e).err = s.err ++ [e] := rfl
@[simp] theorem State.logErr_moves (e : Err) (s : State) : (s.logErr e).moves = s.moves := rfl
@[simp] theorem State.logErr_inb (e : Err) (s : State) : (s.logErr e).inb = s.inb := rfl

@[simp] theorem State.raise_pbuf (e : Err) (s : State) : (s.raise e).pbuf = s.pbuf := rfl
@[simp] theorem State.raise_scratch (e : Err) (s : State) : (s.raise e).scratch = s.scratch := rfl
@[simp] theorem State.raise_pbits (e : Err) (s : State) : (s.raise e).pbits = s.pbits := rfl
@[simp] theorem State.raise_psize (e : Err) (s : State) : (s.raise e).psize = s.psize := rfl
@[simp] theorem State.raise_done (e : Err) (s : State) : (s.raise e).done = s.done := rfl
@[simp] theorem State.raise_fault (e : Err) (s : State) : (s.raise e).fault = true := rfl
@[simp] theorem State.raise_errcode (e : Err) (s : State) : (s.raise e).errcode = e.code := rfl
@[simp] theorem State.raise_beamNode (e : Err) (s : State) : (s.raise e).beamNode = s.beamNode := rfl
@[simp] theorem State.raise_out (e : Err) (s : State) : (s.raise e).out = s.out := rfl
@[simp] theorem State.raise_err (e : Err) (s : State) : (s.raise e).err = s.err ++ [e] := rfl
@[simp] theorem State.raise_moves (e : Err) (s : State) : (s.raise e).moves = s.moves := rfl
@[simp] theorem State.raise_inb (e : Err) (s : State) : (s.raise e).inb = s.inb := rfl

@[simp] theorem State.setInput_pbuf (ms : List HostMove) (bs : List Byte) (s : State) : (s.setInput ms bs).pbuf = s.pbuf := rfl
@[simp] theorem State.setInput_scratch (ms : List HostMove) (bs : List Byte) (s : State) : (s.setInput ms bs).scratch = s.scratch := rfl
@[simp] theorem State.setInput_pbits (ms : List HostMove) (bs : List Byte) (s : State) : (s.setInput ms bs).pbits = s.pbits := rfl
@[simp] theorem State.setInput_psize (ms : List HostMove) (bs : List Byte) (s : State) : (s.setInput ms bs).psize = s.psize := rfl
@[simp] theorem State.setInput_done (ms : List HostMove) (bs : List Byte) (s : State) : (s.setInput ms bs).done = s.done := rfl
@[simp] theorem State.setInput_fault (ms : List HostMove) (bs : List Byte) (s : State) : (s.setInput ms bs).fault = s.fault := rfl
@[simp] theorem State.setInput_errcode (ms : List HostMove) (bs : List Byte) (s : State) : (s.setInput ms bs).errcode = s.errcode := rfl
@[simp] theorem State.setInput_beamNode (ms : List HostMove) (bs : List Byte) (s : State) : (s.setInput ms bs).beamNode = s.beamNode := rfl
@[simp] theorem State.setInput_out (ms : List HostMove) (bs : List Byte) (s : State) : (s.setInput ms bs).out = s.out := rfl
@[simp] theorem State.setInput_err (ms : List HostMove) (bs : List Byte) (s : State) : (s.setInput ms bs).err = s.err := rfl
@[simp] theorem State.setInput_moves (ms : List HostMove) (bs : List Byte) (s : State) : (s.setInput ms bs).moves = ms := rfl
@[simp] theorem State.setInput_inb (ms : List HostMove) (bs : List Byte) (s : State) : (s.setInput ms bs).inb = bs := rfl

/-- The register PSIZE as a number, through each update that leaves it. -/
@[simp] theorem State.setConfig_size (L : Word) (S : BitVec 8) (s : State) : (s.setConfig L S).size = S.toNat := rfl
@[simp] theorem State.recordError_size (e : Err) (s : State) : (s.recordError e).size = s.size := rfl
@[simp] theorem State.close_size (s : State) : (s.close).size = s.size := rfl
@[simp] theorem State.setPbuf_size (m : Mem) (s : State) : (s.setPbuf m).size = s.size := rfl
@[simp] theorem State.setScratch_size (m : Mem) (s : State) : (s.setScratch m).size = s.size := rfl
@[simp] theorem State.loadBeam_size (t : Byte) (s : State) : (s.loadBeam t).size = s.size := rfl
@[simp] theorem State.emit_size (m : OutMsg) (s : State) : (s.emit m).size = s.size := rfl
@[simp] theorem State.logErr_size (e : Err) (s : State) : (s.logErr e).size = s.size := rfl
@[simp] theorem State.raise_size (e : Err) (s : State) : (s.raise e).size = s.size := rfl
@[simp] theorem State.setInput_size (ms : List HostMove) (bs : List Byte) (s : State) : (s.setInput ms bs).size = s.size := rfl

end Sys2Proof.Machine
end

