-- ==== Sys2Proof/Laws/Ops.lean ====
section
/-! SUPPORT. What each shared operation can do, said once: the memory accesses, raise, the beam loop, and the stages of
CFG and FRAME. -/

namespace Sys2Proof.Machine

@[simp] theorem onOk_ok {α : Type} (a : α) (k : α → Result) : onOk (.ok a) k = k a := rfl
@[simp] theorem onOk_error {α : Type} (f : Fault) (k : α → Result) : onOk (.error f) k = .fault f := rfl

/-- Going on answers a next state only through a value of the access. -/
theorem onOk_next_iff {α : Type} {x : Except Fault α} {k : α → Result} {t : State} :
    onOk x k = .next t ↔ ∃ a, x = .ok a ∧ k a = .next t := by
  cases x <;> simp

theorem bind_ok_iff {α β : Type} {x : Except Fault α} {f : α → Except Fault β} {b : β} :
    x.bind f = .ok b ↔ ∃ a, x = .ok a ∧ f a = .ok b := by
  cases x <;> simp [Except.bind]

theorem map_ok_iff {α β : Type} {x : Except Fault α} {f : α → β} {b : β} :
    x.map f = .ok b ↔ ∃ a, x = .ok a ∧ f a = b := by
  cases x <;> simp [Except.map]

@[simp] theorem bind_ok {α β : Type} (a : α) (f : α → Except Fault β) : (Except.ok a).bind f = f a := rfl
@[simp] theorem map_ok {α β : Type} (a : α) (f : α → β) : (Except.ok a : Except Fault α).map f = .ok (f a) := rfl

/-- One byte is read when the cell exists and holds it. -/
theorem readByte_ok_iff {m : Mem} {a : Nat} {v : Byte} : readByte m a = .ok v ↔ a < 256 ∧ m.read a = some v := by
  unfold readByte
  split
  · rename_i h
    cases hm : m.read a <;> simp_all
  · rename_i h
    simp at h; simp; omega

/-- `n` bytes are read when every cell exists and holds its byte. -/
theorem memRead_ok_iff {m : Mem} {a n : Nat} {vs : List Byte} :
    memRead m a n = .ok vs ↔ vs.length = n ∧ ∀ i, i < n → a + i < 256 ∧ m.read (a + i) = vs[i]? := by
  induction n generalizing a vs with
  | zero => cases vs <;> simp [memRead]
  | succ n ih =>
    simp only [memRead, bind_ok_iff, map_ok_iff, readByte_ok_iff, ih]
    constructor
    · rintro ⟨v, ⟨h1, h2⟩, vs, ⟨h3, h4⟩, rfl⟩
      refine ⟨by simp [h3], fun i hi => ?_⟩
      rcases i with _ | i
      · simp [h1, h2]
      · have := h4 i (by omega)
        rw [show a + (i + 1) = a + 1 + i by omega]; simpa using this
    · rintro ⟨h1, h2⟩
      rcases vs with _ | ⟨v, vs⟩
      · simp at h1
      · refine ⟨v, by simpa using h2 0 (by omega), vs, ⟨by simpa using h1, fun i hi => ?_⟩, rfl⟩
        have := h2 (i + 1) (by omega)
        rw [show a + 1 + i = a + (i + 1) by omega]; simpa using this

theorem memWrite_ok_iff {m m' : Mem} {a : Nat} {vs : List Byte} :
    memWrite m a vs = .ok m' ↔ a + vs.length ≤ 256 ∧ m' = m.putList a vs := by
  unfold memWrite
  split <;> rename_i h <;> simp at h
  · simp [h, eq_comm]
  · simp; omega

theorem writePbuf_ok_iff {s t : State} {a : Nat} {vs : List Byte} :
    s.writePbuf a vs = .ok t ↔ a + vs.length ≤ 256 ∧ t = s.setPbuf (s.pbuf.putList a vs) := by
  simp only [State.writePbuf, map_ok_iff, memWrite_ok_iff]
  constructor
  · rintro ⟨m, ⟨h, rfl⟩, rfl⟩; exact ⟨h, rfl⟩
  · rintro ⟨h, rfl⟩; exact ⟨_, ⟨h, rfl⟩, rfl⟩

theorem writeScratch_ok_iff {s t : State} {a : Nat} {vs : List Byte} :
    s.writeScratch a vs = .ok t ↔ a + vs.length ≤ 256 ∧ t = s.setScratch (s.scratch.putList a vs) := by
  simp only [State.writeScratch, map_ok_iff, memWrite_ok_iff]
  constructor
  · rintro ⟨m, ⟨h, rfl⟩, rfl⟩; exact ⟨h, rfl⟩
  · rintro ⟨h, rfl⟩; exact ⟨_, ⟨h, rfl⟩, rfl⟩

/-- Raising an error, as one record update (60_exceptions R189). -/
theorem raise_eq (e : Err) (s : State) :
    s.raise e = { s with fault := true, errcode := e.code, err := s.err ++ [e] } := rfl

/-- The beam loop appends `k` equal beams and nothing else. -/
theorem emitBeams_eq (k : Nat) (s : State) :
    s.emitBeams k = { s with out := s.out ++ List.replicate k (.beam s.beamNode) } := by
  induction k generalizing s with
  | zero => simp [State.emitBeams]
  | succ k ih => rw [State.emitBeams, ih]; simp [State.emit, List.replicate_succ]

/-- Everything the beam stage can do: the header is readable, and the beams of its count and target are appended. -/
theorem beamStage_ok_iff {s t : State} :
    beamStage s = .ok t ↔ ∃ k, readByte s.scratch 1 = .ok k ∧
      ((k = 0 ∧ t = s) ∨ (k ≠ 0 ∧ ∃ n, readByte s.scratch 2 = .ok n ∧
        t = { s with beamNode := n, out := s.out ++ List.replicate k.toNat (.beam n) })) := by
  simp only [beamStage, State.numBeams, State.targetNodeId, bind_ok_iff, map_ok_iff]
  constructor
  · rintro ⟨_, ⟨k, hk, rfl⟩, h⟩
    refine ⟨k, hk, ?_⟩
    by_cases h0 : k = 0
    · subst k; simp at h; exact .inl ⟨rfl, h.symm⟩
    · have hpos : 0 < k.toNat := Nat.pos_of_ne_zero fun h => h0 (BitVec.eq_of_toNat_eq (by simpa using h))
      rw [if_pos hpos, map_ok_iff] at h
      obtain ⟨n, hn, rfl⟩ := h
      exact .inr ⟨h0, n, hn, by rw [emitBeams_eq]; rfl⟩
  · rintro ⟨k, hk, h⟩
    refine ⟨_, ⟨k, hk, rfl⟩, ?_⟩
    rcases h with ⟨rfl, rfl⟩ | ⟨h0, n, hn, rfl⟩
    · simp
    · have hpos : 0 < k.toNat := Nat.pos_of_ne_zero fun h => h0 (BitVec.eq_of_toNat_eq (by simpa using h))
      rw [if_pos hpos, hn, map_ok, emitBeams_eq]; rfl

/-- The payload stage writes the link frame behind the SOF byte. -/
theorem payloadStage_ok_iff {n : Nat} {s t : State} :
    payloadStage n s = .ok t ↔ ∃ p, memRead s.scratch 8 n = .ok p ∧ s.size + 1 + p.length ≤ 256 ∧
      t = s.setPbuf (s.pbuf.putList (s.size + 1) p) := by
  simp only [payloadStage, bind_ok_iff, writePbuf_ok_iff, State.linkFrame, State.readScratch, offPayload,
    config_headerLen]

/-- The pad stage writes one byte behind the payload. -/
theorem padStage_ok_iff {n : Nat} {s t : State} :
    padStage n s = .ok t ↔ s.size + 1 + n + 1 ≤ 256 ∧ t = s.setPbuf (s.pbuf.put (s.size + 1 + n) 0xAA#8) := by
  simp [padStage, writePbuf_ok_iff, offPad, Mem.putList]

/-- The last stage emits what PBUF holds from its start through the pad byte. -/
theorem publishStage_ok_iff {n : Nat} {s t : State} :
    publishStage n s = .ok t ↔ ∃ bytes, memRead s.pbuf 0 (s.size + 1 + n + 1) = .ok bytes ∧
      t = s.emit (.phy bytes) := by
  simp only [publishStage, map_ok_iff, State.readPbuf, frameLen, eq_comm (b := t)]

/-- An accepted configuration, as one update: both writes are inside PBUF (20_memory R62). -/
theorem configure_eq {L : Word} (h : L.toNat ≤ 2040) (s : State) :
    configure L s = .ok ((s.setConfig L (BitVec.ofNat 8 (ceil8 L.toNat))).setPbuf
      ((s.pbuf.putList 0 (preambleBytes L.toNat)).putList (ceil8 L.toNat) [0xF0#8])) := by
  have hS := ceil8_le_255 h
  have h1 := (writePbuf_ok_iff (s := s.setConfig L (BitVec.ofNat 8 (ceil8 L.toNat))) (a := 0)
    (vs := preambleBytes L.toNat)).mpr ⟨by simp; omega, rfl⟩
  simp only [configure, cfgBitLength, h1, bind_ok]
  exact writePbuf_ok_iff.mpr ⟨by simp [offSof]; omega, rfl⟩

end Sys2Proof.Machine
end

