-- ==== Sys2Proof/Laws/Exec.lean ====
section
/-! SUPPORT. What each command can do, as a case list, and what a step can do. Later proofs take a next state apart with
these instead of unfolding the meanings. -/

namespace Sys2Proof.Machine

/-- The state an accepted `CFG L` leaves. -/
def configured (L : Word) (s : State) : State :=
  (s.setConfig L (BitVec.ofNat 8 (ceil8 L.toNat))).setPbuf
    ((s.pbuf.putList 0 (preambleBytes L.toNat)).putList (ceil8 L.toNat) [0xF0#8])

theorem configured_size {L : Word} (h : L.toNat ≤ 2040) (s : State) : (configured L s).psize.toNat = ceil8 L.toNat := by
  have := ceil8_le_255 h
  simp [configured]; omega

theorem execCfg_eq (L : Word) (s : State) :
    execCfg L s = if 2040 < L.toNat then .next (s.raise .cfgRange) else .next (configured L s) := by
  unfold execCfg
  by_cases h : 2040 < L.toNat
  · rw [if_pos h, if_pos (show lMax < cfgBitLength L from h)]
  · rw [if_neg h, if_neg (show ¬lMax < cfgBitLength L from h), configure_eq (by omega), onOk_ok]; rfl

theorem whenActive_next_iff {s t : State} {k : Result} :
    whenActive s k = .next t ↔ (s.done = true ∧ t = s.raise .closed) ∨ (s.done = false ∧ k = .next t) := by
  unfold whenActive
  cases s.done <;> simp [eq_comm]

/-- What `FRAME` does when the four stages have their bytes: the frame read back is the one written (20_memory R58). -/
theorem buildFrame_ok_iff {n : Nat} {s t : State} :
    buildFrame n s = .ok t ↔ ∃ s1 p bytes, beamStage s = .ok s1 ∧ memRead s.scratch 8 n = .ok p ∧
      s.size + 1 + n + 1 ≤ 256 ∧
      memRead ((s.pbuf.putList (s.size + 1) p).put (s.size + 1 + n) 0xAA#8) 0 (s.size + 1 + n + 1) = .ok bytes ∧
      t = (s1.setPbuf ((s.pbuf.putList (s.size + 1) p).put (s.size + 1 + n) 0xAA#8)).emit (.phy bytes) := by
  have keep : ∀ s1, beamStage s = .ok s1 → s1.scratch = s.scratch ∧ s1.pbuf = s.pbuf ∧ s1.size = s.size := by
    intro s1 h
    obtain ⟨k, -, ⟨-, rfl⟩ | ⟨-, m, -, rfl⟩⟩ := beamStage_ok_iff.mp h <;> exact ⟨rfl, rfl, rfl⟩
  simp only [buildFrame, bind_ok_iff, payloadStage_ok_iff, padStage_ok_iff, publishStage_ok_iff]
  constructor
  · rintro ⟨s1, h1, s2, ⟨p, hp, hl, rfl⟩, s3, ⟨hn, rfl⟩, bytes, hb, rfl⟩
    obtain ⟨e1, e2, e3⟩ := keep s1 h1
    simp only [State.setPbuf_size, State.setPbuf_pbuf, e1, e2, e3] at hp hl hn hb
    exact ⟨s1, p, bytes, h1, hp, hn, hb, by simp only [State.setPbuf_size, State.setPbuf_pbuf, e2, e3]; rfl⟩
  · rintro ⟨s1, p, bytes, h1, hp, hn, hb, rfl⟩
    obtain ⟨e1, e2, e3⟩ := keep s1 h1
    have hl := (memRead_ok_iff.mp hp).1
    refine ⟨s1, h1, _, ⟨p, e1.symm ▸ hp, by omega, rfl⟩, _, ⟨by simpa [e3] using hn, rfl⟩, bytes, ?_, ?_⟩
    · simpa [e2, e3] using hb
    · simp only [State.setPbuf_size, State.setPbuf_pbuf, e2, e3]; rfl

/-- Every way a `FRAME` can end (42_frame_processor R152). -/
theorem execFrame_next_iff {d : Nat} {s t : State} :
    execFrame d s = .next t ↔ (d < 8 ∧ t = s.raise .shortHdr) ∨ (8 ≤ d ∧ buildFrame (d - 8) s = .ok t) := by
  unfold execFrame
  rcases Nat.lt_or_ge d 8 with h | h
  · simp [linkLen_of_lt h, h, eq_comm]
  · rw [linkLen_of_le h]
    simp only [onOk_next_iff, Host.Outcome.next.injEq]
    constructor
    · rintro ⟨a, ha, rfl⟩; exact .inr ⟨h, ha⟩
    · rintro (⟨h', -⟩ | ⟨-, hb⟩)
      · omega
      · exact ⟨t, hb, rfl⟩

/-- Every way a `BLOB` can end (42_frame_processor R144), `FRAME` apart. -/
theorem execBlob_next_iff {b : List Byte} {s t : State} :
    execBlob b s = .next t ↔
      (s.done = true ∧ t = s.raise .closed) ∨
      (s.done = false ∧ b = [] ∧ t = s.raise .lenZero) ∨
      (s.done = false ∧ b ≠ [] ∧ 254 ≤ b.length + s.size ∧ t = s.raise .lenOver) ∨
      (s.done = false ∧ b ≠ [] ∧ b.length + s.size < 254 ∧ b[0]? ≠ some 0x01#8 ∧
        t = s.setScratch (s.scratch.putList 0 b)) ∨
      (s.done = false ∧ b ≠ [] ∧ b.length + s.size < 254 ∧ b[0]? = some 0x01#8 ∧
        execFrame b.length (s.setScratch (s.scratch.putList 0 b)) = .next t) := by
  unfold execBlob
  rw [whenActive_next_iff]
  cases hd : s.done
  · rcases b with _ | ⟨m, b⟩
    · simp [eq_comm]
    · have hne : m :: b ≠ [] := List.cons_ne_nil m b
      have hlen : (m :: b).length ≠ 0 := by simp
      obtain ⟨c, hb⟩ : ∃ c, m :: b = c := ⟨_, rfl⟩
      rw [hb] at hne hlen ⊢
      rw [if_neg hlen]
      rcases Nat.lt_or_ge (c.length + s.size) 254 with hl | hl
      · have hw := (writeScratch_ok_iff (s := s) (a := 0) (vs := c)).mpr ⟨by omega, rfl⟩
        have hc : List.head? c = some m := by rw [← hb]; rfl
        rw [List.head?_eq_getElem?] at hc
        have hm : (s.setScratch (s.scratch.putList 0 c)).marker = .ok m :=
          readByte_ok_iff.mpr ⟨by omega, by
            rw [State.setScratch_scratch, Mem.read_putList, if_pos ⟨Nat.le_refl 0, by omega⟩]; exact hc⟩
        have ho : lenOver s.size c.length = false := (lenOver_eq_false_iff _ _).mpr hl
        have hl' : ¬ 254 ≤ c.length + s.size := by omega
        simp only [ho, hw, onOk_ok, secondStage, hm, config_marker, hl, hl', hc, hne]
        by_cases h1 : m = 0x01#8 <;> simp [h1, execDrop, eq_comm] <;> exact fun _ => hne
      · have ho : lenOver s.size c.length = true := (lenOver_iff _ _).mpr hl
        have hl' : ¬ c.length + s.size < 254 := by omega
        simp [ho, hl, hl', hne, eq_comm]
  · simp

/-- What taking a host move can give: nothing, a reset, a command with its bytes, a wait or a refusal. -/
theorem fetch_cases (s : State) :
    (s.moves = [] ∧ fetch s = .idle) ∨
    (∃ b rest, s.moves = .reset b :: rest ∧
      ((2040 < b.toNat ∧ fetch s = .refused .strapOutOfRange) ∨
        (b.toNat ≤ 2040 ∧ fetch s = .event (State.afterReset b rest s.inb)))) ∨
    fetch s = .stuck .awaitingBlobBytes ∨
    (∃ i ms bs, fetch s = .command i (s.setInput ms bs) ∧ (i.mnemonic ≠ .frame ∧ i.mnemonic ≠ .drop)) := by
  have acc : ∀ p k o rest, accept p k o rest s = .stuck .awaitingBlobBytes ∨
      ∃ i ms bs, accept p k o rest s = .command i (s.setInput ms bs) ∧ (i.mnemonic ≠ .frame ∧ i.mnemonic ≠ .drop) := by
    intro p k o rest
    unfold accept decodeD1
    split
    · rename_i i inb h
      refine .inr ⟨i, rest, inb, rfl, ?_⟩
      split at h
      · cases h; simp [Instr.mnemonic]
      · split at h
        · split at h
          · cases h
          · cases h; simp [Instr.mnemonic]
        · split at h <;> cases h <;> simp [Instr.mnemonic]
    · exact .inl rfl
  unfold fetch
  split
  · rename_i h; exact .inl ⟨h, rfl⟩
  · rename_i b rest h
    refine .inr (.inl ⟨b, rest, h, ?_⟩)
    by_cases hb : 2040 < b.toNat
    · exact .inl ⟨hb, if_pos hb⟩
    · exact .inr ⟨by omega, if_neg hb⟩
  all_goals exact .inr (.inr (acc _ _ _ _))

end Sys2Proof.Machine
end

