-- ==== Sys2Proof/Laws/PerInstr.lean ====
section
/-! SUPPORT. Per command: the words it is encoded in select rows of the opcode map of its own mnemonic only
(spec/30_encoding.md R87). -/

namespace Sys2Proof.Laws.RowSelected

/-- The format and the dispatch word of an encoding. -/
def dispatchOf : Words → Format × Nat
  | .d1 dw1 _ _ => (.d1, dw1.toNat)
  | .d2 dw2 _ => (.d2, dw2.toNat)

/-- The rows a well-formed command's dispatch word selects are one row of its mnemonic. -/
def Statement (i : Instr) : Prop :=
  i.wf = true →
    (selectedRows (dispatchOf (encode i)).1 (dispatchOf (encode i)).2).map OpcodeRow.mnemonic = [i.mnemonic]

theorem cfg (bitLength : Word) : Statement (.cfg bitLength) := fun _ =>
  (by decide : (selectedRows .d1 (0b100#3).toNat).map OpcodeRow.mnemonic = [.cfg])
theorem blob (bytes : List Byte) : Statement (.blob bytes) := fun _ =>
  (by decide : (selectedRows .d1 (0b000#3).toNat).map OpcodeRow.mnemonic = [.blob])
theorem eos : Statement .eos := fun _ =>
  (by decide : (selectedRows .d1 (0b001#3).toNat).map OpcodeRow.mnemonic = [.eos])
theorem bad : Statement .bad := fun _ =>
  (by decide : (selectedRows .d1 (0b010#3).toNat).map OpcodeRow.mnemonic = [.bad])
theorem frame (dataLen : Nat) : Statement (.frame dataLen) := fun _ =>
  (by decide : (selectedRows .d2 (0x01#8).toNat).map OpcodeRow.mnemonic = [.frame])

theorem drop_rows : ∀ k : Fin 256, k.val ≠ 1 → (selectedRows .d2 k.val).map OpcodeRow.mnemonic = [.drop] := by
  decide +kernel

theorem drop (marker : Byte) : Statement (.drop marker) := fun h => by
  refine drop_rows ⟨marker.toNat, marker.isLt⟩ fun h1 => ?_
  simp only [Instr.wf, decide_eq_true_eq] at h
  exact h (BitVec.eq_of_toNat_eq h1)

end Sys2Proof.Laws.RowSelected
end

