-- ==== Sys2Proof/Tests/Slice0.lean ====
section
/-! SUPPORT. Small tests. Expected values are those of spec/95_test_vectors.md (the vector's id stands with each) or are
written out bit by bit from the tables of spec/30_encoding.md; behind them, the witnesses that the hypotheses of each
statement are met together, clause by clause and at the ends of their ranges. -/

namespace Sys2Proof.Tests

open Sys2Proof.Machine Sys2Proof.Safety

/-- The state after a reset with a strap, for a host that offers `moves` and `inb`. -/
def start (L : Word) (moves : List HostMove) (inb : List Byte) : State := State.afterReset L moves inb

/-- The same, in Closed (T1 to T7). -/
def closed (L : Word) : State := (start L [] []).close

/-- A recognised blob (30_encoding R94, `frame`). -/
def frameBlob (beams target : Byte) (payload : List Byte) : List Byte := (TraceLine.frame beams target payload).bytes

/-- `start L` with a blob in SCRATCH, as the second stage finds it. -/
def loaded (L : Word) (blob : List Byte) : State := (start L [] []).setScratch (Mem.putList [] 0 blob)

/-- The outcome is a next state of which `p` holds. -/
def answers (r : Result) (p : State → Bool) : Bool :=
  match r with
  | .next t => p t
  | _ => false

/-- The bytes a memory holds from an address on. -/
def cells (m : Mem) (a n : Nat) : List (Option Byte) := (List.range n).map fun i => m.read (a + i)

/-! WellFormed: an ill-formed term for each check. -/

theorem test_wf_refuses_long_blob : (Instr.blob (List.replicate 65536 0x00#8)).wf = false := by
  simp only [Instr.wf, List.length_replicate]; decide
theorem test_wf_refuses_long_frame : (Instr.frame 65536).wf = false := by decide
theorem test_wf_refuses_drop_of_recognised_marker : (Instr.drop 0x01#8).wf = false := by decide
theorem test_wf_admits : (Instr.cfg 0xFFFF#16).wf = true ∧ (Instr.blob []).wf = true ∧ Instr.eos.wf = true ∧
    Instr.bad.wf = true ∧ (Instr.frame 65535).wf = true ∧ (Instr.drop 0x00#8).wf = true := by decide

/-! Decode: words written out from 30_encoding R85, R86; the operands as P1 to P3 list them. -/

/-- P2: `cfg 9`, `dw1` = 1--. -/
theorem test_decode_cfg : ∀ dw1 ∈ [0b100#3, 0b101#3, 0b110#3, 0b111#3],
    decodeD1 dw1 0b0000000000001001#16 [] = .ok (.cfg 9#16, []) := by decide
/-- P3: `blob 01 05 07`, `dw1` = 000, with a byte of the next blob behind it. -/
theorem test_decode_blob : decodeD1 0b000#3 0x0003#16 [0x01, 0x05, 0x07, 0x02] =
    .ok (.blob [0x01, 0x05, 0x07], [0x02]) := by decide
/-- P1: `eos`, `dw1` = 001, `ind_len` ignored. -/
theorem test_decode_eos : decodeD1 0b001#3 0xFFFF#16 [0x02] = .ok (.eos, [0x02]) := by decide
/-- P3, E3: `bad`, `dw1` = 010 and 011. -/
theorem test_decode_bad : decodeD1 0b010#3 0x0005#16 [0x02] = .ok (.bad, [0x02]) ∧
    decodeD1 0b011#3 0x0005#16 [0x02] = .ok (.bad, [0x02]) := by decide
/-- P1: `dw2` = 00000001. -/
theorem test_decode_frame : decodeD2 0b00000001#8 11 = .frame 11 := by decide
/-- P1 and X1 to X10. -/
theorem test_decode_drop : decodeD2 0b01111111#8 10 = .drop 0x7F#8 ∧
    ∀ m ∈ [0x00#8, 0x02#8, 0x03#8, 0x81#8, 0xFF#8, 0x40#8, 0x20#8, 0x10#8, 0x08#8, 0x04#8], decodeD2 m 9 = .drop m := by
  decide
/-- U16: a blob of which bytes are missing. -/
theorem test_decode_awaits_bytes : decodeD1 0b000#3 0x0002#16 [0x01] = .error (.awaitingBytes 2 1) := by decide
/-- Words of the opcode table (log 12). -/
theorem test_decode_table_words : decodeTableWord 8 4 = some (.cfg 0#16) ∧ decodeTableWord 8 0 = some (.blob []) ∧
    decodeTableWord 8 1 = some .eos ∧ decodeTableWord 8 2 = some .bad ∧ decodeTableWord 8 0x80 = some (.drop 0x80#8) ∧
    decodeTableWord 8 0x100 = none := by decide

/-! Instructions, at most two tests each. -/

/-- K9 after K64: the bytes of the vector, and the old SOF byte still at index 8 (section 2.1). -/
theorem test_cfg_9_after_64 : answers (exec (.cfg 9#16) (start 64#16 [] [])) (fun t =>
    decide (t.pbits = 9#16 ∧ t.psize = 2#8 ∧ cells t.pbuf 0 3 = [some 0x01, some 0x55, some 0xF0] ∧
      t.pbuf.read 8 = some 0xF0#8)) = true := by decide
/-- K2041. -/
theorem test_cfg_2041_refused : answers (exec (.cfg 2041#16) (start 25#16 [] [])) (fun t =>
    decide (t.errcode = 6#3 ∧ t.err = [.cfgRange] ∧ t.psize = 4#8)) = true := by decide
/-- F2. -/
theorem test_blob_frame_with_beams : answers (exec (.blob (frameBlob 0x02 0x2A [0xC1, 0xC2, 0xC3])) (start 25#16 [] []))
    (fun t => decide (t.out = [.beam 0x2A, .beam 0x2A, .phy [0x01, 0x55, 0x55, 0x55, 0xF0, 0xC1, 0xC2, 0xC3, 0xAA]] ∧
      cells t.pbuf 5 4 = [some 0xC1, some 0xC2, some 0xC3, some 0xAA])) = true := by decide
/-- E9: the comparison does not wrap at `S` = 255. -/
theorem test_blob_at_full_preamble : answers (exec (.blob [0x00]) { start 0#16 [] [] with psize := 255#8 })
    (fun t => decide (t.err = [.lenOver] ∧ t.scratch = [])) = true := by decide
/-- Z1. -/
theorem test_eos_closes : answers (exec .eos (start 25#16 [] [])) (fun t =>
    decide (t.out = [.eosOut] ∧ t.done = true ∧ t.fault = false)) = true := by decide
/-- T1. -/
theorem test_eos_when_closed : answers (exec .eos (closed 25#16)) (fun t =>
    decide (t.out = [] ∧ t.err = [.closed] ∧ t.errcode = 5#3)) = true := by decide
/-- E2. -/
theorem test_bad_shape : answers (exec .bad (start 25#16 [] [])) (fun t =>
    decide (t.err = [.badShape] ∧ t.errcode = 1#3 ∧ t.fault = true)) = true := by decide
/-- T2. -/
theorem test_bad_when_closed : answers (exec .bad (closed 25#16)) (fun t => decide (t.err = [.closed])) = true := by
  decide
/-- F5: header bytes 3 to 7 are ignored. -/
theorem test_frame_ignores_reserved_header : answers
    (exec (.frame 9) (loaded 25#16 [0x01, 0x00, 0x00, 0xDE, 0xAD, 0xBE, 0xEF, 0x99, 0xC1])) (fun t =>
      decide (t.out = [.phy [0x01, 0x55, 0x55, 0x55, 0xF0, 0xC1, 0xAA]])) = true := by decide
/-- H2: the header test comes before the beam count is read. -/
theorem test_frame_short_header : answers (exec (.frame 3) (loaded 25#16 [0x01, 0x05, 0x07])) (fun t =>
    decide (t.out = [] ∧ t.err = [.shortHdr] ∧ t.errcode = 4#3)) = true := by decide
/-- X2, from the blob. -/
theorem test_drop_is_silent : answers (exec (.blob (TraceLine.other 0x02 [0xC1]).bytes) (start 25#16 [] [])) (fun t =>
    decide (t.out = [] ∧ t.err = [] ∧ t.scratch.read 0 = some 0x02#8 ∧ t.scratch.read 8 = some 0xC1#8)) = true := by
  decide

/-! Steps, ports and the reset event. -/

/-- 20_memory R57: of two offers at one edge the configuration is taken, the descriptor stays. -/
theorem test_step_cfg_first : answers (step (start 0#16 [.both 9#16 0b01#2 0#16] [])) (fun t =>
    decide (t.psize = 2#8 ∧ t.moves = [.ind 0b01#2 0#16] ∧ t.out = [])) = true := by decide
/-- Q2, from Closed. -/
theorem test_step_reset : answers (step { closed 0#16 with moves := [.reset 25#16] }) (fun t =>
    decide (cells t.pbuf 0 6 = [some 0x01, some 0x55, some 0x55, some 0x55, some 0xF0, none] ∧ t.done = false)) = true := by
  decide
/-- A refused length still drains its bytes (30_encoding R73). -/
theorem test_step_drains : answers (step { start 0#16 [.ind 0b00#2 2#16] [0x01, 0x02, 0x03] with psize := 253#8 }) (fun t =>
    decide (t.err = [.lenOver] ∧ t.inb = [0x03])) = true := by decide
/-- The transfers of program P1's second frame and end of stream. -/
theorem test_transfers : State.outTransfers { start 25#16 [] [] with out := [.phy [0x01, 0xAA], .eosOut] } =
    [⟨0b00#2, 0x01, false⟩, ⟨0b00#2, 0xAA, true⟩, ⟨0b01#2, 0x00, true⟩] := by decide
/-- A word of the opcode table is the next command (log 12, log 13). -/
theorem test_fetch_word : answers (step (State.reset.withFetchWord 8 1)) (fun t => decide (t.out = [.eosOut])) = true ∧
    answers (step (State.reset.withFetchWord 8 0x80)) (fun t => decide (t.scratch.read 0 = some 0x80#8)) = true := by
  decide
/-- A trace line reaches the ports as 30_encoding R74 says: P1's first command. -/
theorem test_deliver : (State.reset.deliver [.frame 0x02 0x2A [0xC1, 0xC2, 0xC3]]).moves = [.ind 0b00#2 11#16] ∧
    (State.reset.deliver [.frame 0x02 0x2A [0xC1, 0xC2, 0xC3]]).inb =
      [0x01, 0x02, 0x2A, 0x00, 0x00, 0x00, 0x00, 0x00, 0xC1, 0xC2, 0xC3] := by decide

/-! Offset calculator and preamble function, rows of sections 2.1 and 2.2. -/

theorem test_offsets : lenOk 4 249 = true ∧ lenOk 4 250 = false ∧ lenOk 252 1 = true ∧ lenOk 253 1 = false ∧
    lenOk 255 65535 = false ∧ lenLimit 255 = -1 ∧ linkLen 7 = none ∧ linkLen 249 = some 241 ∧ offPad 4 241 = 246 ∧
    frameLen 4 241 = 247 := by decide
theorem test_partial_byte : (List.range 8).map (fun k => preambleByte (8 + k) (ceil8 (8 + k)) 0) =
    [0x55, 0x01, 0x01, 0x05, 0x05, 0x15, 0x15, 0x55] := by decide

/-! Witnesses. Each names the statement whose hypotheses it meets. -/

theorem preamble_0 : PreambleInPlace (start 0#16 [] []) := by unfold PreambleInPlace; decide
theorem preamble_25 : PreambleInPlace (start 25#16 [] []) := by unfold PreambleInPlace; decide

theorem witness_ResetEventLeavesTableValues : (start 0#16 [.reset 0#16] []).moves = .reset 0#16 :: [] ∧
    (0#16).toNat ≤ 2040 ∧ (start 0#16 [.reset 2040#16] []).moves = .reset 2040#16 :: [] ∧ (2040#16).toNat ≤ 2040 := by
  decide
theorem witness_ConstructionActsAsConfigure : (start 0#16 [.reset 2040#16] []).moves = .reset 2040#16 :: [] ∧
    (2040#16).toNat ≤ 2040 := by decide
theorem witness_StrapAboveRangeRefused : (start 0#16 [.reset 2041#16] []).moves = .reset 2041#16 :: [] ∧
    2040 < (2041#16).toNat := by decide
theorem witness_IdleBlockStays : (start 25#16 [] []).moves = [] := by decide
theorem witness_StepRunsDecodedCommand :
    ((Instr.blob [0x02]).wf = true ∧ decodeD1 (dispatchWord 0#1 0b00#2) 1#16 [0x02] = .ok (.blob [0x02], []) ∧
      (start 0#16 [.ind 0b00#2 1#16] [0x02]).moves = .ind 0b00#2 1#16 :: []) ∧
    ((Instr.cfg 9#16).wf = true ∧ decodeD1 (dispatchWord 1#1 0b11#2) 9#16 [] = .ok (.cfg 9#16, []) ∧
      (start 0#16 [.cfg 0b11#2 9#16] []).moves = .cfg 0b11#2 9#16 :: []) ∧
    (start 0#16 [.both 9#16 0b11#2 0#16] []).moves = .both 9#16 0b11#2 0#16 :: [] := by decide
theorem witness_ConfigurationPortServedFirst :
    (start 0#16 [.both 9#16 0b01#2 0#16] []).moves = .both 9#16 0b01#2 0#16 :: [] := by decide
theorem witness_BlobBytesDrainedWhateverOutcome :
    (PreambleInPlace (start 0#16 [.ind 0#2 2#16] [0x01, 0x02]) ∧ 2 ≤ [0x01#8, 0x02#8].length) ∧
    (PreambleInPlace (start 0#16 [.ind 1#2 2#16] []) ∧ (1#2 = 0#2 → 2 ≤ ([] : List Byte).length)) := by
  unfold PreambleInPlace; decide
theorem witness_BlobWaitsForMissingBytes : (start 0#16 [.ind 0#2 1#16] []).moves = .ind 0#2 1#16 :: [] ∧
    (start 0#16 [.ind 0#2 1#16] []).inb.length < (1#16).toNat := by decide
theorem witness_ReservedKindRaisesBadShape : (start 0#16 [.ind 0b11#2 0#16] []).moves = .ind 0b11#2 0#16 :: [] ∧
    (start 0#16 [.ind 0b11#2 0#16] []).done = false ∧ (start 0#16 [.ind 0b11#2 0#16] []).close.done = true := by decide
theorem witness_DeliveredLineIsExecuted : (start 25#16 [] []).moves = [] ∧ (start 25#16 [] []).inb = [] ∧
    [0x02#8].length < 65536 ∧ (2040#16).toNat ≤ 2040 := by decide
theorem witness_CfgWritesPreambleOrRefuses : (0#16).toNat ≤ 2040 ∧ (2040#16).toNat ≤ 2040 ∧ 2040 < (2041#16).toNat ∧
    2040 < (65535#16).toNat := by decide
theorem witness_PreambleBytesClosedForm : (0 : Nat) = 0 ∧ ((8 : Nat) ≠ 0 ∧ 8 % 8 = 0) ∧ ((9 : Nat) ≠ 0 ∧ 9 % 8 ≠ 0) ∧
    0 < (9 + 7) / 8 := by decide
theorem witness_PreambleIsRightAligned : (0 : Nat) < 1 ∧ (preambleBytes 1).getLast? = some 0x01#8 := by decide
theorem witness_CfgTwiceIsCfgOnce : (start 25#16 [] []).pbuf.wf = true ∧ (2040#16).toNat ≤ 2040 := by decide
theorem witness_AcceptedLengthsBoundEveryIndex : (0 ≤ 255 ∧ lenOk 0 253 = true ∧ 8 ≤ 253) ∧
    (245 ≤ 255 ∧ lenOk 245 8 = true ∧ 8 ≤ 8) ∧ (255 ≤ 255 ∧ lenOk 255 1 = false) := by decide
theorem witness_EosClosesBlock : (start 25#16 [] []).done = false ∧ (closed 25#16).done = true := by decide
theorem witness_BadRaisesBadShape : (start 25#16 [] []).done = false := by decide
theorem witness_ClosedBlockRefusesEveryMessage : (closed 25#16).done = true ∧
    (∀ i ∈ [Instr.eos, .bad, .blob []], i = .eos ∨ i = .bad ∨ i = .blob []) ∧
    (start 0#16 [.ind 0#2 1#16] [0x02]).close.done = true ∧
    (0#2 = 0#2 → (1#16).toNat ≤ (start 0#16 [.ind 0#2 1#16] [0x02]).inb.length) := by decide
theorem witness_BlobLengthChecked : (start 25#16 [] []).done = false ∧ ([] : List Byte).length = 0 ∧
    (List.replicate 250 0x00#8).length ≠ 0 ∧ 254 ≤ (List.replicate 250 0x00#8).length + (start 25#16 [] []).psize.toNat ∧
    (0#16).toNat ≤ (start 0#16 [.ind 0#2 0#16] []).inb.length ∧ (0#16).toNat = 0 ∧
    (254#16).toNat ≤ (start 0#16 [.ind 0#2 254#16] (List.replicate 254 0x00#8)).inb.length ∧ (254#16).toNat ≠ 0 ∧
    254 ≤ (254#16).toNat + (start 0#16 [] []).psize.toNat := by
  decide +kernel
theorem witness_BlobCopiedToScratch : PreambleInPlace (start 25#16 [] []) ∧ (start 25#16 [] []).done = false ∧
    List.replicate 249 0x00#8 ≠ [] ∧ (List.replicate 249 0x00#8).length + (start 25#16 [] []).psize.toNat < 254 := by
  unfold PreambleInPlace; decide +kernel
theorem witness_BlobGoesOnAsSecondStage : (start 25#16 [] []).done = false ∧
    (0x01#8 :: List.replicate 248 0x00#8).length + (start 25#16 [] []).psize.toNat < 254 := by decide +kernel
theorem witness_UnrecognisedBlobDropped : (start 25#16 [] []).done = false ∧
    (0x00#8 :: List.replicate 248 0x00#8).length + (start 25#16 [] []).psize.toNat < 254 ∧ 0x00#8 ≠ 0x01#8 := by decide +kernel
theorem witness_ShortHeaderRaisedAfterCopy : (start 25#16 [] []).done = false ∧ [0x05#8, 0, 0, 0, 0, 0].length < 7 ∧
    [0x05#8, 0, 0, 0, 0, 0].length + 1 + (start 25#16 [] []).psize.toNat < 254 ∧ 7 < 8 := by decide
/-- With beams, and without. -/
theorem witness_FrameEmitsBeamsThenFrame : ∀ beams ∈ [0x00#8, 0x02#8],
    (loaded 25#16 (frameBlob beams 0x2A [0xC1])).done = false ∧ [0x01#8, beams, 0x2A, 0, 0, 0, 0, 0].length = 8 ∧ [0x01#8, beams, 0x2A, 0, 0, 0, 0, 0][1]? = some beams ∧
    [0x01#8, beams, 0x2A, 0, 0, 0, 0, 0][2]? = some 0x2A#8 ∧
    Holds (loaded 25#16 (frameBlob beams 0x2A [0xC1])).scratch 0 ([0x01#8, beams, 0x2A, 0, 0, 0, 0, 0] ++ [0xC1#8]) ∧
    [0x01#8, 0x55, 0x55, 0x55, 0xF0].length = (loaded 25#16 (frameBlob beams 0x2A [0xC1])).psize.toNat + 1 ∧
    Holds (loaded 25#16 (frameBlob beams 0x2A [0xC1])).pbuf 0 [0x01#8, 0x55, 0x55, 0x55, 0xF0] ∧
    8 + [0xC1#8].length + (loaded 25#16 (frameBlob beams 0x2A [0xC1])).psize.toNat < 254 := by unfold Holds; decide
/-- The longest payload at `S` = 4 (F7); the beam count is free, so 0 and more are met alike. -/
theorem witness_RecognisedBlobClosedForm : PreambleInPlace (start 25#16 [] []) ∧ (start 25#16 [] []).done = false ∧
    8 + (List.replicate 241 0x11#8).length + (start 25#16 [] []).psize.toNat < 254 := by unfold PreambleInPlace; decide +kernel
theorem witness_ConfigureGovernsNextFrame : (start 25#16 [] []).done = false ∧
    8 + ([] : List Byte).length + ((1960#16).toNat + 7) / 8 < 254 ∧
    8 + (List.replicate 245 0x11#8).length + ((0#16).toNat + 7) / 8 < 254 ∧ 0#16 = 0#16 := by decide +kernel
theorem witness_MessageHasOneOutcome : PreambleInPlace (start 25#16 [] []) ∧ PreambleInPlace (closed 25#16) ∧
    ∀ i ∈ [Instr.eos, .bad, .blob [0x01]], i = .eos ∨ i = .bad ∨ i = .blob [0x01] := by unfold PreambleInPlace; decide
/-- Each error's test fails somewhere, each alone. -/
theorem witness_FirstFailingTestIsRaised : PreambleInPlace (start 25#16 [] []) ∧ PreambleInPlace (closed 25#16) ∧
    2040 < (2041#16).toNat ∧ 254 ≤ (List.replicate 250 0x00#8).length + (start 25#16 [] []).psize.toNat ∧
    ([0x01#8][0]? = some 0x01#8 ∧ [0x01#8].length < 8) ∧ ¬ 254 ≤ [0x01#8].length + (start 25#16 [] []).psize.toNat := by
  unfold PreambleInPlace; decide +kernel

theorem memories_25 : MemoriesCanonical (start 25#16 [.ind 0b01#2 0#16] []) := by unfold MemoriesCanonical; decide
theorem errors_25 : ErrorsRecorded (start 25#16 [.ind 0b01#2 0#16] []) := by unfold ErrorsRecorded; decide
theorem eos_25 : EndOfStreamOnce (start 25#16 [.ind 0b01#2 0#16] []) := .inl (by decide)
theorem preamble_25_eos : PreambleInPlace (start 25#16 [.ind 0b01#2 0#16] []) := by unfold PreambleInPlace; decide
theorem frames_25 : FramesWellFormed (start 25#16 [.ind 0b01#2 0#16] []) := fun _ h => by
  simp [start, State.afterReset] at h

/-- Closed, with one EosOut behind a frame, meets the second side of EndOfStreamOnce. -/
theorem witness_EndOfStreamOnce_closed :
    EndOfStreamOnce { closed 25#16 with out := [.phy [0xF0#8, 0xAA#8], .eosOut] } :=
  .inr ⟨rfl, [.phy [0xF0#8, 0xAA#8]], rfl, by decide⟩

/-- An Inv state that takes a step (the premises of the five StepKeeps statements together). -/
theorem witness_StepKeepsInvariant : ∃ s t, Inv s ∧ step s = .next t :=
  ⟨start 25#16 [.ind 0b01#2 0#16] [], _, ⟨memories_25, preamble_25_eos, errors_25, eos_25, frames_25⟩, rfl⟩
theorem witness_StepKeepsMemoriesCanonical : ∃ s t, MemoriesCanonical s ∧ step s = .next t :=
  ⟨start 25#16 [.ind 0b01#2 0#16] [], _, memories_25, rfl⟩
theorem witness_StepKeepsPreambleInPlace : ∃ s t, PreambleInPlace s ∧ step s = .next t :=
  ⟨start 25#16 [.ind 0b01#2 0#16] [], _, preamble_25_eos, rfl⟩
theorem witness_StepKeepsErrorsRecorded : ∃ s t, ErrorsRecorded s ∧ step s = .next t :=
  ⟨start 25#16 [.ind 0b01#2 0#16] [], _, errors_25, rfl⟩
theorem witness_StepKeepsEndOfStreamOnce : ∃ s t, EndOfStreamOnce s ∧ step s = .next t :=
  ⟨start 25#16 [.ind 0b01#2 0#16] [], _, eos_25, rfl⟩
/-- Both stops are met with the preamble in place. -/
theorem witness_StepStopsOnlyForTheHost :
    (∃ s, PreambleInPlace s ∧ step s = .fault .awaitingBlobBytes) ∧
    ∃ s, PreambleInPlace s ∧ step s = .refused .strapOutOfRange :=
  ⟨⟨start 0#16 [.ind 0b00#2 1#16] [], by unfold PreambleInPlace; decide, rfl⟩,
    ⟨start 0#16 [.reset 2041#16] [], by unfold PreambleInPlace; decide, rfl⟩⟩
/-- Two states that differ in every hidden place. -/
theorem witness_HiddenStateIsNeverObserved : Indistinguishable (start 25#16 [] [])
    { loaded 25#16 [0x02#8] with
      beamNode := 0x2A#8, fault := true, errcode := 2#3, pbuf := (constructedPbuf 25).put 9 0x99#8 } :=
  ⟨preamble_25, by unfold PreambleInPlace; decide, rfl, rfl, rfl, rfl, rfl, rfl⟩
theorem witness_FaultFlagStickyAndUnread : ∃ t u, exec .bad (start 25#16 [] []) = .next t ∧
    t.err ≠ (start 25#16 [] []).err ∧ t.fault = true ∧ exec .eos t = .next u ∧ u.err = t.err :=
  ⟨_, _, rfl, by decide, rfl, rfl, rfl⟩
theorem witness_LifecycleTransitions : (∃ t u, step (start 0#16 [.reset 25#16] []) = .next t ∧
      fetch (start 0#16 [.reset 25#16] []) = .event u) ∧
    ∃ t u, step (start 25#16 [.ind 0b01#2 0#16] []) = .next t ∧
      fetch (start 25#16 [.ind 0b01#2 0#16] []) = .command .eos u :=
  ⟨⟨_, _, rfl, rfl⟩, ⟨_, _, rfl, rfl⟩⟩
theorem witness_OutputsOnlyAppended : ∃ t, step (start 25#16 [.ind 0b01#2 0#16] []) = .next t ∧
    ∀ u, fetch (start 25#16 [.ind 0b01#2 0#16] []) ≠ .event u := ⟨_, rfl, nofun⟩
theorem witness_DecodeOfEncodeIsIdentity :
    ∀ i ∈ [Instr.cfg 2041#16, .blob [0x01], .eos, .bad, .frame 65535, .drop 0xFF#8], i.wf = true := by decide
theorem witness_EveryDispatchWordSelectsOneRow :
    decodeD1 0b111#3 9#16 [] = .ok (.cfg 9#16, []) ∧ decodeD1 0b000#3 0#16 [] = .ok (.blob [], []) ∧
    decodeD1 0b001#3 0#16 [] = .ok (.eos, []) ∧ decodeD1 0b011#3 0#16 [] = .ok (.bad, []) := by decide
/-- The shortest frame, `F0 AA` (30_encoding R80). -/
theorem witness_OutboundTransfers :
    FramesWellFormed { start 0#16 [] [] with out := [.phy [0xF0#8, 0xAA#8]] } ∧
    OutMsg.phy [0xF0#8, 0xAA#8] ∈ ({ start 0#16 [] [] with out := [.phy [0xF0#8, 0xAA#8]] } : State).out :=
  ⟨fun b h => ⟨0, [], by decide, by decide, by
    simp only [List.mem_singleton, OutMsg.phy.injEq] at h
    subst h; decide⟩, by decide⟩

end Sys2Proof.Tests
end

section
/-! What the block does when the host offers nothing (spec/00_scope.md R14, spec/60_exceptions.md R196). -/

namespace Sys2Proof.Machine

theorem fetch_of_moves_nil {s : State} (h : s.moves = []) : fetch s = .idle := by
  simp only [fetch, h]

theorem step_of_fetch_idle {s : State} (h : fetch s = .idle) : step s = .next s := by
  simp only [step, h]

/-- Settles O5: with no move left the block fetches nothing, and a step that fetches nothing answers its own state. -/
theorem idleBlockStays : Obligations.IdleBlockStays := fun _ h => step_of_fetch_idle (fetch_of_moves_nil h)

end Sys2Proof.Machine
end

section
/-! Every way a command can end: the frame a `FRAME` builds, as one update of the state, and then the list of endings of
each command, which is exactly what `exec` answers (spec/40_preamble_builder.md R100, spec/42_frame_processor.md R141 to
R157). -/

namespace Sys2Proof.Machine

open Sys2Proof.Safety

/-- PBUF with a payload and its pad byte behind the SOF byte at index `S` (42_frame_processor R154, R155). -/
def Mem.putFrame (m : Mem) (S : Nat) (payload : List Byte) : Mem :=
  (m.putList (S + 1) payload).put (S + 1 + payload.length) 0xAA#8

theorem Mem.read_putFrame_of_le (m : Mem) {S a : Nat} (payload : List Byte) (h : a ≤ S) :
    (m.putFrame S payload).read a = m.read a := by
  rw [Mem.putFrame, Mem.read_put_other _ _ (by omega), Mem.read_putList, if_neg (by omega)]

theorem Mem.wf_putFrame {m : Mem} {S : Nat} {payload : List Byte} (hm : m.wf = true)
    (h : S + 1 + payload.length + 1 ≤ 256) : (m.putFrame S payload).wf = true :=
  Mem.wf_put (Mem.wf_putList hm (by omega)) (by omega) _

theorem holds_putList (m : Mem) (a : Nat) (bytes : List Byte) : Holds (m.putList a bytes) a bytes := fun i hi => by
  rw [Mem.read_putList, if_pos (by omega), Nat.add_sub_cancel_left]

/-- A memory holds at most one list of a given length at an address. -/
theorem holds_unique {m : Mem} {a : Nat} {xs ys : List Byte} (hx : Holds m a xs) (hy : Holds m a ys)
    (hl : xs.length = ys.length) : xs = ys := by
  refine List.ext_getElem? fun i => ?_
  by_cases hi : i < xs.length
  · exact (hx i hi).symm.trans (hy i (hl ▸ hi))
  · rw [List.getElem?_eq_none (by omega), List.getElem?_eq_none (by omega)]

theorem memRead_of_holds {m : Mem} {a : Nat} {bytes : List Byte} (h : Holds m a bytes) (ha : a + bytes.length ≤ 256) :
    memRead m a bytes.length = .ok bytes :=
  memRead_ok_iff.mpr ⟨rfl, fun i hi => ⟨by omega, h i hi⟩⟩

/-- What stands before the payload stays, so the whole frame stands in PBUF from index 0. -/
theorem holds_putFrame {m : Mem} {S : Nat} {pre : List Byte} (payload : List Byte) (hpre : Holds m 0 pre)
    (hl : pre.length = S + 1) : Holds (m.putFrame S payload) 0 (pre ++ payload ++ [0xAA#8]) := by
  intro i hi
  simp only [List.length_append, List.length_singleton] at hi
  rw [List.append_assoc, List.getElem?_append, Nat.zero_add]
  by_cases h1 : i < pre.length
  · have hread := hpre i h1
    rw [Nat.zero_add] at hread
    rw [if_pos h1, Mem.read_putFrame_of_le _ _ (by omega), hread]
  · rw [if_neg h1, List.getElem?_append, Mem.putFrame, Mem.read_put, Mem.read_putList, hl]
    by_cases h2 : i < S + 1 + payload.length
    · rw [if_neg (by omega), if_pos (by omega), if_pos (by omega)]
    · have h3 : i = S + 1 + payload.length := by omega
      subst h3
      simp

/-- The state a `FRAME` leaves that finds the beam count `k`, the target, the payload, and `pre` at the start of PBUF. -/
def framed (k target : Byte) (payload pre : List Byte) (s : State) : State :=
  { s with
    beamNode := if k = 0 then s.beamNode else target
    pbuf := s.pbuf.putFrame s.size payload
    out := s.out ++ List.replicate k.toNat (.beam target) ++ [.phy (pre ++ payload ++ [0xAA#8])] }

/-- What a `FRAME` on a blob of `dataLen` bytes finds in the two memories when it gets to its end. -/
structure FrameReady (dataLen : Nat) (s : State) (k target : Byte) (payload pre : List Byte) : Prop where
  header : 8 ≤ dataLen
  beams : readByte s.scratch 1 = .ok k
  target : k ≠ 0 → readByte s.scratch 2 = .ok target
  payload : memRead s.scratch 8 (dataLen - 8) = .ok payload
  room : s.size + 1 + (dataLen - 8) + 1 ≤ 256
  preLength : pre.length = s.size + 1
  preamble : Holds s.pbuf 0 pre

theorem FrameReady.payload_length {d : Nat} {s : State} {k target : Byte} {payload pre : List Byte}
    (h : FrameReady d s k target payload pre) : payload.length = d - 8 :=
  (memRead_ok_iff.mp h.payload).1

/-- The frame read back out of PBUF. -/
theorem FrameReady.readBack {d : Nat} {s : State} {k target : Byte} {payload pre : List Byte}
    (h : FrameReady d s k target payload pre) :
    memRead (s.pbuf.putFrame s.size payload) 0 (s.size + 1 + (d - 8) + 1) = .ok (pre ++ payload ++ [0xAA#8]) := by
  have hp := h.payload_length
  have hl := h.preLength
  have hroom := h.room
  have hlen : (pre ++ payload ++ [0xAA#8]).length = s.size + 1 + (d - 8) + 1 := by
    simp only [List.length_append, List.length_singleton, hp, hl]
  rw [← hlen]
  exact memRead_of_holds (holds_putFrame payload h.preamble hl) (by omega)

theorem FrameReady.buildFrame_eq {d : Nat} {s : State} {k target : Byte} {payload pre : List Byte}
    (h : FrameReady d s k target payload pre) : buildFrame (d - 8) s = .ok (framed k target payload pre s) := by
  have hback := h.readBack
  rw [Mem.putFrame, h.payload_length] at hback
  by_cases hk : k = 0
  · refine buildFrame_ok_iff.mpr ⟨s, payload, _, beamStage_ok_iff.mpr ⟨k, h.beams, .inl ⟨hk, rfl⟩⟩, h.payload, h.room,
      hback, ?_⟩
    simp [framed, hk, Mem.putFrame, h.payload_length, State.emit, State.setPbuf]
  · refine buildFrame_ok_iff.mpr ⟨_, payload, _,
      beamStage_ok_iff.mpr ⟨k, h.beams, .inr ⟨hk, target, h.target hk, rfl⟩⟩, h.payload, h.room, hback, ?_⟩
    rw [framed, if_neg hk, Mem.putFrame, h.payload_length]
    rfl

/-- A frame that was built is the one of what stood in the memories: PBUF up to the SOF byte was read back unchanged. -/
theorem exists_frameReady_of_buildFrame {d : Nat} {s t : State} (hd : 8 ≤ d) (h : buildFrame (d - 8) s = .ok t) :
    ∃ k target payload pre, FrameReady d s k target payload pre ∧ t = framed k target payload pre s := by
  obtain ⟨s1, payload, bytes, hbeam, hpay, hroom, hback, -⟩ := buildFrame_ok_iff.mp h
  obtain ⟨k, hk, hcase⟩ := beamStage_ok_iff.mp hbeam
  obtain ⟨hlen, hread⟩ := memRead_ok_iff.mp hback
  have hpl := (memRead_ok_iff.mp hpay).1
  have hpre : Holds s.pbuf 0 (bytes.take (s.size + 1)) := by
    intro i hi
    rw [List.length_take] at hi
    have hold := Mem.read_putFrame_of_le s.pbuf payload (show 0 + i ≤ s.size by omega)
    rw [Mem.putFrame, hpl] at hold
    rw [← hold, (hread i (by omega)).2, List.getElem?_take_of_lt (by omega)]
  obtain ⟨target, htarget⟩ : ∃ target, k ≠ 0 → readByte s.scratch 2 = .ok target := by
    rcases hcase with ⟨h0, -⟩ | ⟨-, target, htarget, -⟩
    · exact ⟨0, fun hne => absurd h0 hne⟩
    · exact ⟨target, fun _ => htarget⟩
  have hready : FrameReady d s k target payload (bytes.take (s.size + 1)) :=
    ⟨hd, hk, htarget, hpay, hroom, by rw [List.length_take]; omega, hpre⟩
  exact ⟨k, target, payload, _, hready, Except.ok.inj (h.symm.trans hready.buildFrame_eq)⟩

/-- The two endings of a `FRAME` that goes on (42_frame_processor R152). -/
inductive FrameEnds (dataLen : Nat) (s : State) : State → Prop where
  | short : dataLen < 8 → FrameEnds dataLen s (s.raise .shortHdr)
  | published {k target : Byte} {payload pre : List Byte} :
      FrameReady dataLen s k target payload pre → FrameEnds dataLen s (framed k target payload pre s)

theorem execFrame_next_iff_frameEnds {d : Nat} {s t : State} : execFrame d s = .next t ↔ FrameEnds d s t := by
  rw [execFrame_next_iff]
  constructor
  · rintro (⟨hd, rfl⟩ | ⟨hd, hb⟩)
    · exact .short hd
    · obtain ⟨k, target, payload, pre, hready, rfl⟩ := exists_frameReady_of_buildFrame hd hb
      exact .published hready
  · rintro (hd | hready)
    · exact .inl ⟨hd, rfl⟩
    · exact .inr ⟨hready.header, hready.buildFrame_eq⟩

/-- The three inbound messages of channel `ind`, which begin with the Closed check (42_frame_processor R141). -/
def isMessage : Instr → Bool
  | .eos | .bad | .blob _ => true
  | _ => false

/-- The state with a blob copied to SCRATCH (42_frame_processor R147). -/
def copied (b : List Byte) (s : State) : State := s.setScratch (s.scratch.putList 0 b)

@[simp] theorem copied_size (b : List Byte) (s : State) : (copied b s).size = s.size := rfl

/-- Every ending of every command that goes on. -/
inductive Ends : Instr → State → State → Prop where
  | cfgRange {L : Word} {s : State} : 2040 < L.toNat → Ends (.cfg L) s (s.raise .cfgRange)
  | configured {L : Word} {s : State} : L.toNat ≤ 2040 → Ends (.cfg L) s (configured L s)
  | closed {i : Instr} {s : State} : isMessage i = true → s.done = true → Ends i s (s.raise .closed)
  | eos {s : State} : s.done = false → Ends .eos s (s.emit .eosOut).close
  | bad {s : State} : s.done = false → Ends .bad s (s.raise .badShape)
  | lenZero {s : State} : s.done = false → Ends (.blob []) s (s.raise .lenZero)
  | lenOver {b : List Byte} {s : State} : s.done = false → b ≠ [] → 254 ≤ b.length + s.size →
      Ends (.blob b) s (s.raise .lenOver)
  | dropped {b : List Byte} {s : State} : s.done = false → b ≠ [] → b.length + s.size < 254 → b[0]? ≠ some 0x01#8 →
      Ends (.blob b) s (copied b s)
  | recognised {b : List Byte} {s t : State} : s.done = false → b ≠ [] → b.length + s.size < 254 →
      b[0]? = some 0x01#8 → FrameEnds b.length (copied b s) t → Ends (.blob b) s t
  | frame {d : Nat} {s t : State} : FrameEnds d s t → Ends (.frame d) s t
  | drop {m : Byte} {s : State} : Ends (.drop m) s s

theorem execCfg_next_iff_ends {L : Word} {s t : State} : execCfg L s = .next t ↔ Ends (.cfg L) s t := by
  rw [execCfg_eq]
  constructor
  · split <;> rintro ⟨rfl⟩
    · exact .cfgRange ‹_›
    · exact .configured (by omega)
  · intro h
    cases h with
    | cfgRange h => exact if_pos h
    | configured h => exact if_neg (by omega)
    | closed h => cases h

theorem execEos_next_iff_ends {s t : State} : execEos s = .next t ↔ Ends .eos s t := by
  rw [execEos, whenActive_next_iff]
  constructor
  · rintro (⟨hd, rfl⟩ | ⟨hd, ⟨rfl⟩⟩)
    · exact .closed rfl hd
    · exact .eos hd
  · intro h
    cases h with
    | closed _ hd => exact .inl ⟨hd, rfl⟩
    | eos hd => exact .inr ⟨hd, rfl⟩

theorem execBad_next_iff_ends {s t : State} : execBad s = .next t ↔ Ends .bad s t := by
  rw [execBad, whenActive_next_iff]
  constructor
  · rintro (⟨hd, rfl⟩ | ⟨hd, ⟨rfl⟩⟩)
    · exact .closed rfl hd
    · exact .bad hd
  · intro h
    cases h with
    | closed _ hd => exact .inl ⟨hd, rfl⟩
    | bad hd => exact .inr ⟨hd, rfl⟩

theorem execBlob_next_iff_ends {b : List Byte} {s t : State} : execBlob b s = .next t ↔ Ends (.blob b) s t := by
  rw [execBlob_next_iff, execFrame_next_iff_frameEnds]
  constructor
  · rintro (⟨hd, rfl⟩ | ⟨hd, rfl, rfl⟩ | ⟨hd, hb, hl, rfl⟩ | ⟨hd, hb, hl, hm, rfl⟩ | ⟨hd, hb, hl, hm, hf⟩)
    · exact .closed rfl hd
    · exact .lenZero hd
    · exact .lenOver hd hb hl
    · exact .dropped hd hb hl hm
    · exact .recognised hd hb hl hm hf
  · intro h
    cases h with
    | closed _ hd => exact .inl ⟨hd, rfl⟩
    | lenZero hd => exact .inr (.inl ⟨hd, rfl, rfl⟩)
    | lenOver hd hb hl => exact .inr (.inr (.inl ⟨hd, hb, hl, rfl⟩))
    | dropped hd hb hl hm => exact .inr (.inr (.inr (.inl ⟨hd, hb, hl, hm, rfl⟩)))
    | recognised hd hb hl hm hf => exact .inr (.inr (.inr (.inr ⟨hd, hb, hl, hm, hf⟩)))

/-- What a command can do: it answers a next state exactly by one of its endings. -/
theorem exec_next_iff_ends {i : Instr} {s t : State} : exec i s = .next t ↔ Ends i s t := by
  cases i with
  | cfg L => exact execCfg_next_iff_ends
  | blob b => exact execBlob_next_iff_ends
  | eos => exact execEos_next_iff_ends
  | bad => exact execBad_next_iff_ends
  | frame d =>
    refine execFrame_next_iff_frameEnds.trans ⟨.frame, fun h => ?_⟩
    cases h with
    | closed h => cases h
    | frame h => exact h
  | drop m =>
    refine ⟨fun h => ?_, fun h => ?_⟩
    · cases h; exact .drop
    · cases h with
      | closed h => cases h
      | drop => rfl

end Sys2Proof.Machine
end

section
/-! What a step can do, and the induction over it packaged once: a predicate that every reset event establishes and every
update of a command keeps is kept by every step. -/

namespace Sys2Proof.Machine

open Sys2Proof.Safety

theorem step_of_fetch_event {s u : State} (h : fetch s = .event u) : step s = .next u := by
  simp only [step, h]

theorem step_of_fetch_command {i : Instr} {s u : State} (h : fetch s = .command i u) : step s = exec i u := by
  simp only [step, h]

theorem step_of_fetch_stuck {s : State} {f : Fault} (h : fetch s = .stuck f) : step s = .fault f := by
  simp only [step, h]

theorem step_of_fetch_refused {s : State} {r : Refusal} (h : fetch s = .refused r) : step s = .refused r := by
  simp only [step, h]

/-- The commands a first-stage decode gives (30_encoding R85): `FRAME` and `DROP` are reached through `BLOB` only. -/
def Transferable (i : Instr) : Prop := i.mnemonic ≠ .frame ∧ i.mnemonic ≠ .drop

/-- Every way a step can go on. -/
theorem step_next_cases {s t : State} (h : step s = .next t) :
    t = s ∨ (∃ L ms, L.toNat ≤ 2040 ∧ t = State.afterReset L ms s.inb) ∨
      ∃ i ms bs, Transferable i ∧ Ends i (s.setInput ms bs) t := by
  obtain ⟨-, hf⟩ | ⟨L, ms, -, ⟨-, hf⟩ | ⟨hL, hf⟩⟩ | hf | ⟨i, ms, bs, hf, hi⟩ := fetch_cases s
  · rw [step_of_fetch_idle hf] at h; cases h; exact .inl rfl
  · rw [step_of_fetch_refused hf] at h; cases h
  · rw [step_of_fetch_event hf] at h; cases h; exact .inr (.inl ⟨L, ms, hL, rfl⟩)
  · rw [step_of_fetch_stuck hf] at h; cases h
  · rw [step_of_fetch_command hf] at h; exact .inr (.inr ⟨i, ms, bs, hi, exec_next_iff_ends.mp h⟩)

/-- A predicate that holds after every reset event, and that each of the updates a transferred command is made of
keeps. -/
structure StepInvariant (P : State → Prop) : Prop where
  onReset : ∀ (L : Word) (ms : List HostMove) (bs : List Byte), L.toNat ≤ 2040 → P (State.afterReset L ms bs)
  onInput : ∀ (s : State) (ms : List HostMove) (bs : List Byte), P s → P (s.setInput ms bs)
  onRaise : ∀ (s : State) (e : Err), P s → P (s.raise e)
  onConfigured : ∀ (s : State) (L : Word), L.toNat ≤ 2040 → P s → P (configured L s)
  onClose : ∀ s : State, s.done = false → P s → P (s.emit .eosOut).close
  onCopied : ∀ (s : State) (b : List Byte), b.length + s.size < 254 → P s → P (copied b s)
  onFramed : ∀ (s : State) (k target : Byte) (payload pre : List Byte), s.done = false →
    8 + payload.length + s.size < 254 → pre.length = s.size + 1 → Holds s.pbuf 0 pre → P s →
    P (framed k target payload pre s)

theorem StepInvariant.keeps_ends {P : State → Prop} (inv : StepInvariant P) {i : Instr} {s t : State}
    (hi : Transferable i) (h : Ends i s t) (hs : P s) : P t := by
  cases h with
  | cfgRange => exact inv.onRaise _ _ hs
  | configured hL => exact inv.onConfigured _ _ hL hs
  | closed => exact inv.onRaise _ _ hs
  | eos hd => exact inv.onClose _ hd hs
  | bad => exact inv.onRaise _ _ hs
  | lenZero => exact inv.onRaise _ _ hs
  | lenOver => exact inv.onRaise _ _ hs
  | dropped _ _ hl => exact inv.onCopied _ _ hl hs
  | recognised hd _ hl _ hf =>
    have hcopy := inv.onCopied _ _ hl hs
    cases hf with
    | short => exact inv.onRaise _ _ hcopy
    | published hready =>
      have h8 := hready.header
      refine inv.onFramed _ _ _ _ _ hd ?_ hready.preLength hready.preamble hcopy
      rw [hready.payload_length, copied_size]
      omega
  | frame => exact absurd rfl hi.1
  | drop => exact absurd rfl hi.2

theorem StepInvariant.keeps_step {P : State → Prop} (inv : StepInvariant P) {s t : State} (hs : P s)
    (h : step s = .next t) : P t := by
  obtain rfl | ⟨L, ms, hL, rfl⟩ | ⟨i, ms, bs, hi, hends⟩ := step_next_cases h
  · exact hs
  · exact inv.onReset L ms _ hL
  · exact inv.keeps_ends hi hends (inv.onInput s ms bs hs)

end Sys2Proof.Machine
end

section
/-! The invariants of spec/10_state.md: each holds after a reset event and is kept by every update (R26, R28 to R30;
20_memory R50; 30_encoding R80). -/

namespace Sys2Proof.Machine

open Sys2Proof.Safety

/-- A state is in the form R26 asks for as soon as the preamble and the SOF byte of its registers were written. -/
theorem preambleInPlace_of_written {s : State} {L : Word} {m : Mem} (hL : L.toNat ≤ 2040) (hbits : s.pbits = L)
    (hsize : s.psize = BitVec.ofNat 8 (ceil8 L.toNat))
    (hpbuf : s.pbuf = (m.putList 0 (preambleBytes L.toNat)).putList (ceil8 L.toNat) [0xF0#8]) : PreambleInPlace s := by
  have hS : s.psize.toNat = ceil8 L.toNat := by
    rw [hsize, BitVec.toNat_ofNat]
    exact Nat.mod_eq_of_lt (Nat.lt_succ_of_le (ceil8_le_255 hL))
  subst hbits
  refine ⟨hL, hS, fun i hi => ?_, ?_⟩
  · rw [hpbuf, read_preamble_sof, if_pos (hS ▸ hi), hS]
  · rw [hpbuf, read_preamble_sof, hS, if_neg (Nat.lt_irrefl _), if_pos rfl]

theorem preambleInPlace_afterReset {L : Word} (hL : L.toNat ≤ 2040) (ms : List HostMove) (bs : List Byte) :
    PreambleInPlace (State.afterReset L ms bs) :=
  preambleInPlace_of_written hL rfl rfl (constructedPbuf_eq _)

theorem preambleInPlace_configured {L : Word} (hL : L.toNat ≤ 2040) (s : State) : PreambleInPlace (configured L s) :=
  preambleInPlace_of_written hL rfl rfl rfl

/-- A frame is written above the SOF byte. -/
theorem preambleInPlace_framed {s : State} (k target : Byte) (payload pre : List Byte) (h : PreambleInPlace s) :
    PreambleInPlace (framed k target payload pre s) := by
  obtain ⟨hL, hS, hpre, hsof⟩ := h
  have keep : ∀ a, a ≤ s.psize.toNat → (framed k target payload pre s).pbuf.read a = s.pbuf.read a := fun a ha =>
    Mem.read_putFrame_of_le s.pbuf payload ha
  exact ⟨hL, hS, fun i hi => (keep i (Nat.le_of_lt hi)).trans (hpre i hi), (keep _ (Nat.le_refl _)).trans hsof⟩

theorem preambleInPlace_stepInvariant : StepInvariant PreambleInPlace where
  onReset _ ms bs hL := preambleInPlace_afterReset hL ms bs
  onInput _ _ _ h := h
  onRaise _ _ h := h
  onConfigured s _ hL _ := preambleInPlace_configured hL s
  onClose _ _ h := h
  onCopied _ _ _ h := h
  onFramed _ k target payload pre _ _ _ _ h := preambleInPlace_framed k target payload pre h

/-- Settles O31: only `CFG` and a reset write PBITS, PSIZE or a cell up to the SOF byte, and both write all of them. -/
theorem stepKeepsPreambleInPlace : Obligations.StepKeepsPreambleInPlace := fun _ _ hs h =>
  preambleInPlace_stepInvariant.keeps_step hs h

theorem memoriesCanonical_stepInvariant : StepInvariant MemoriesCanonical where
  onReset _ _ _ hL := ⟨constructedPbuf_wf hL, rfl⟩
  onInput _ _ _ h := h
  onRaise _ _ h := h
  onConfigured s L hL h := by
    have hS := ceil8_le_255 hL
    have hpre : (s.pbuf.putList 0 (preambleBytes L.toNat)).wf = true :=
      Mem.wf_putList h.1 (by rw [preambleBytes_length]; omega)
    exact ⟨Mem.wf_putList hpre (by rw [List.length_singleton]; omega), h.2⟩
  onClose _ _ h := h
  onCopied _ _ hl h := ⟨h.1, Mem.wf_putList h.2 (by omega)⟩
  onFramed _ _ _ _ _ _ hl _ _ h := ⟨Mem.wf_putFrame h.1 (by omega), h.2⟩

theorem errorsRecorded_stepInvariant : StepInvariant ErrorsRecorded where
  onReset _ _ _ _ := ⟨rfl, rfl⟩
  onInput _ _ _ h := h
  onRaise s e _ := by simp [ErrorsRecorded]
  onConfigured _ _ _ h := h
  onClose _ _ h := h
  onCopied _ _ _ h := h
  onFramed _ _ _ _ _ _ _ _ _ h := h

/-- Settles O32: `raise` writes both flags with the event it appends, and no other update touches the three. -/
theorem stepKeepsErrorsRecorded : Obligations.StepKeepsErrorsRecorded := fun _ _ hs h =>
  errorsRecorded_stepInvariant.keeps_step hs h

/-- In Active no EosOut was emitted yet. -/
theorem eosOut_not_mem_of_active {s : State} (h : EndOfStreamOnce s) (hd : s.done = false) : OutMsg.eosOut ∉ s.out := by
  obtain ⟨-, hout⟩ | ⟨hdone, -⟩ := h
  · exact hout
  · exact absurd (hd.symm.trans hdone) Bool.false_ne_true

theorem endOfStreamOnce_stepInvariant : StepInvariant EndOfStreamOnce where
  onReset _ _ _ _ := .inl ⟨rfl, List.not_mem_nil⟩
  onInput _ _ _ h := h
  onRaise _ _ h := h
  onConfigured _ _ _ h := h
  onClose s hd h := .inr ⟨rfl, s.out, rfl, eosOut_not_mem_of_active h hd⟩
  onCopied _ _ _ h := h
  onFramed s _ _ _ _ hd _ _ _ h := by
    have hout := eosOut_not_mem_of_active h hd
    exact .inl ⟨hd, by simp [framed, hout]⟩

/-- The bytes of PBUF that R26 fixes. -/
theorem holds_preamble_sof {s : State} (h : PreambleInPlace s) : Holds s.pbuf 0 (preambleBytes s.pbits.toNat ++ [0xF0#8]) := by
  obtain ⟨-, hS, hpre, hsof⟩ := h
  intro i hi
  rw [List.length_append, preambleBytes_length, List.length_singleton] at hi
  rw [Nat.zero_add, List.getElem?_append, preambleBytes_length, preambleBytes_getElem?]
  by_cases h1 : i < ceil8 s.pbits.toNat
  · rw [if_pos h1, if_pos h1, hpre i (by omega), hS]
  · have h2 : i = ceil8 s.pbits.toNat := by omega
    subst h2
    rw [if_neg h1, Nat.sub_self, ← hS, hsof]
    rfl

theorem preamble_sof_length {s : State} (h : PreambleInPlace s) :
    (preambleBytes s.pbits.toNat ++ [0xF0#8]).length = s.size + 1 := by
  obtain ⟨-, hS, -, -⟩ := h
  rw [List.length_append, preambleBytes_length, ← hS]
  rfl

theorem isPhysicalFrame_of_preamble {s : State} (h : PreambleInPlace s) {payload : List Byte}
    (hl : 8 + payload.length + s.size < 254) :
    IsPhysicalFrame (preambleBytes s.pbits.toNat ++ [0xF0#8] ++ payload ++ [0xAA#8]) := by
  obtain ⟨hL, hS, -, -⟩ := h
  refine ⟨s.pbits.toNat, payload, hL, ?_, rfl⟩
  rw [← hS]
  change s.size + payload.length ≤ 245
  omega

/-- The layout of the frames rests on the preamble in PBUF, so the two are kept together. -/
theorem framesWellFormed_stepInvariant : StepInvariant fun s => PreambleInPlace s ∧ FramesWellFormed s where
  onReset _ ms bs hL := ⟨preambleInPlace_afterReset hL ms bs, fun _ h => absurd h List.not_mem_nil⟩
  onInput _ _ _ h := h
  onRaise _ _ h := h
  onConfigured s _ hL h := ⟨preambleInPlace_configured hL s, h.2⟩
  onClose s _ h := by
    refine ⟨h.1, fun bytes hb => h.2 bytes ?_⟩
    simpa using hb
  onCopied _ _ _ h := h
  onFramed s k target payload pre _ hl hpl hpre h := by
    obtain ⟨hplace, hframes⟩ := h
    refine ⟨preambleInPlace_framed k target payload pre hplace, fun bytes hb => ?_⟩
    have hpre_eq := holds_unique hpre (holds_preamble_sof hplace)
      (hpl.trans (preamble_sof_length hplace).symm)
    have hcase : OutMsg.phy bytes ∈ s.out ∨ bytes = pre ++ payload ++ [0xAA#8] := by simpa [framed] using hb
    obtain hold | hnew := hcase
    · exact hframes bytes hold
    · rw [hnew, hpre_eq]
      exact isPhysicalFrame_of_preamble hplace hl

/-- Settles O34: each part of the invariant is kept by every update, the frames with the help of the preamble. -/
theorem stepKeepsInvariant : Obligations.StepKeepsInvariant := fun _ _ hs h =>
  { memories := memoriesCanonical_stepInvariant.keeps_step hs.memories h
    preamble := preambleInPlace_stepInvariant.keeps_step hs.preamble h
    errors := errorsRecorded_stepInvariant.keeps_step hs.errors h
    endOfStream := endOfStreamOnce_stepInvariant.keeps_step hs.endOfStream h
    frames := (framesWellFormed_stepInvariant.keeps_step ⟨hs.preamble, hs.frames⟩ h).2 }

theorem inv_afterReset {L : Word} (hL : L.toNat ≤ 2040) (ms : List HostMove) (bs : List Byte) :
    Inv (State.afterReset L ms bs) where
  memories := memoriesCanonical_stepInvariant.onReset L ms bs hL
  preamble := preambleInPlace_stepInvariant.onReset L ms bs hL
  errors := errorsRecorded_stepInvariant.onReset L ms bs hL
  endOfStream := endOfStreamOnce_stepInvariant.onReset L ms bs hL
  frames := (framesWellFormed_stepInvariant.onReset L ms bs hL).2

/-- Settles O4: State.reset is what a reset event with strap 0 leaves. -/
theorem resetStateMeetsInvariant : Obligations.ResetStateMeetsInvariant := inv_afterReset (by decide) [] []

end Sys2Proof.Machine
end

section
/-! The reset table (spec/10_state.md R38). -/

namespace Sys2Proof.Machine

open Sys2Proof.Safety

theorem step_of_moves_reset {s : State} {L : Word} {ms : List HostMove} (hm : s.moves = .reset L :: ms)
    (hL : L.toNat ≤ 2040) : step s = .next (State.afterReset L ms s.inb) := by
  refine step_of_fetch_event ?_
  simp only [fetch, hm]
  exact if_neg (Nat.not_lt.mpr hL)

theorem read_constructedPbuf_of_gt {L a : Nat} (h : ceil8 L < a) : (constructedPbuf L).read a = none := by
  rw [constructedPbuf_eq, read_preamble_sof, if_neg (by omega), if_neg (by omega), Mem.read_nil]

theorem holds_constructedPbuf (L : Nat) : Holds (constructedPbuf L) 0 (preambleBytes L) := fun i hi => by
  rw [preambleBytes_length] at hi
  rw [Nat.zero_add, constructedPbuf_eq, read_preamble_sof, preambleBytes_getElem?, if_pos hi, if_pos hi]

/-- Settles O1: the step of a reset event answers `State.afterReset`, whose fields are the rows of the table. -/
theorem resetEventLeavesTableValues : Obligations.ResetEventLeavesTableValues := by
  intro s L ms hm hL
  obtain ⟨-, hS, -, hsof⟩ := preambleInPlace_afterReset hL ms s.inb
  exact ⟨_, step_of_moves_reset hm hL, rfl, hS.trans (ceil8_eq_div _), holds_constructedPbuf _, hsof,
    fun a ha => read_constructedPbuf_of_gt (hS ▸ ha), fun _ => rfl, rfl, rfl, rfl, rfl, rfl⟩

end Sys2Proof.Machine
end

section
/-! FAULT and ERRCODE are written by `raise` only and read by no command (spec/10_state.md R29, R30). -/

namespace Sys2Proof.Machine

/-- The state with other values in FAULT and ERRCODE. -/
def State.withFlags (flag : Bool) (code : BitVec 3) (s : State) : State := { s with fault := flag, errcode := code }

/-- A command records one error and appends it to ERR, or leaves all three alone. -/
def RaisesAtMostOnce (s t : State) : Prop :=
  (∃ e, t.fault = true ∧ t.errcode = e.code ∧ t.err = s.err ++ [e]) ∨
    (t.fault = s.fault ∧ t.errcode = s.errcode ∧ t.err = s.err)

theorem Ends.raisesAtMostOnce {i : Instr} {s t : State} (h : Ends i s t) : RaisesAtMostOnce s t := by
  have raised : ∀ e, RaisesAtMostOnce s (s.raise e) := fun e => .inl ⟨e, rfl, rfl, rfl⟩
  have ofFrame : ∀ d u, u.fault = s.fault → u.errcode = s.errcode → u.err = s.err → FrameEnds d u t →
      RaisesAtMostOnce s t := by
    rintro d u hf hc he (hd | hready)
    · exact .inl ⟨.shortHdr, rfl, rfl, congrArg (· ++ _) he⟩
    · exact .inr ⟨hf, hc, he⟩
  cases h with
  | cfgRange | closed | bad | lenZero | lenOver => exact raised _
  | configured | eos | dropped | drop => exact .inr ⟨rfl, rfl, rfl⟩
  | recognised _ _ _ _ hf => exact ofFrame _ (copied _ s) rfl rfl rfl hf
  | frame hf => exact ofFrame _ _ rfl rfl rfl hf

theorem FrameEnds.withFlags {d : Nat} {s t : State} (flag : Bool) (code : BitVec 3) (h : FrameEnds d s t) :
    ∃ t', FrameEnds d (s.withFlags flag code) t' ∧ t'.withFlags t.fault t.errcode = t := by
  cases h with
  | short hd => exact ⟨_, .short hd, rfl⟩
  | published hready => exact ⟨_, .published ⟨hready.header, hready.beams, hready.target, hready.payload, hready.room,
      hready.preLength, hready.preamble⟩, rfl⟩

/-- No ending asks for the two flags, so with others at the start the same one is taken. -/
theorem Ends.withFlags {i : Instr} {s t : State} (flag : Bool) (code : BitVec 3) (h : Ends i s t) :
    ∃ t', Ends i (s.withFlags flag code) t' ∧ t'.withFlags t.fault t.errcode = t := by
  cases h with
  | cfgRange hL => exact ⟨_, .cfgRange hL, rfl⟩
  | configured hL => exact ⟨_, .configured hL, rfl⟩
  | closed hi hd => exact ⟨_, .closed hi hd, rfl⟩
  | eos hd => exact ⟨_, .eos hd, rfl⟩
  | bad hd => exact ⟨_, .bad hd, rfl⟩
  | lenZero hd => exact ⟨_, .lenZero hd, rfl⟩
  | lenOver hd hb hl => exact ⟨_, .lenOver hd hb hl, rfl⟩
  | dropped hd hb hl hm => exact ⟨_, .dropped hd hb hl hm, rfl⟩
  | recognised hd hb hl hm hf =>
    obtain ⟨t', hf', heq⟩ := hf.withFlags flag code
    exact ⟨t', .recognised hd hb hl hm hf', heq⟩
  | frame hf =>
    obtain ⟨t', hf', heq⟩ := hf.withFlags flag code
    exact ⟨t', .frame hf', heq⟩
  | drop => exact ⟨_, .drop, rfl⟩

/-- Settles O37: an ending that raises sets both flags with the event, every other keeps them, and none reads them. -/
theorem faultFlagStickyAndUnread : Obligations.FaultFlagStickyAndUnread := by
  intro i s t flag code h
  have hends := exec_next_iff_ends.mp h
  obtain ⟨t', hends', heq⟩ := hends.withFlags flag code
  have hunread : ∃ t', exec i { s with fault := flag, errcode := code } = .next t' ∧
      { t' with fault := t.fault, errcode := t.errcode } = t := ⟨t', exec_next_iff_ends.mpr hends', heq⟩
  obtain ⟨e, hfault, hcode, herr⟩ | ⟨hfault, hcode, herr⟩ := hends.raisesAtMostOnce
  · exact ⟨fun _ => hfault, hunread, fun _ => ⟨hfault, by simp [herr, hcode]⟩, fun hsame => by simp [herr] at hsame⟩
  · exact ⟨fun hs => hfault.trans hs, hunread, fun hne => absurd herr hne, fun _ => ⟨hfault, hcode⟩⟩

end Sys2Proof.Machine
end

section
/-! With its preamble in place a transferred command always goes on, and what it answers shows nothing of the hidden state
(spec/10_state.md R23, R29 to R31, R34). -/

namespace Sys2Proof.Machine

open Sys2Proof.Safety

theorem readByte_copied {b : List Byte} {i : Nat} {v : Byte} (s : State) (hl : b.length ≤ 256) (hv : b[i]? = some v) :
    readByte (copied b s).scratch i = .ok v := by
  obtain ⟨hi, -⟩ := List.getElem?_eq_some_iff.mp hv
  have hread := holds_putList s.scratch 0 b i hi
  rw [Nat.zero_add, hv] at hread
  exact readByte_ok_iff.mpr ⟨by omega, hread⟩

/-- The link frame of a copied blob is the blob behind its header. -/
theorem memRead_copied_drop {b : List Byte} (s : State) (hl : b.length ≤ 256) (h8 : 8 ≤ b.length) :
    memRead (copied b s).scratch 8 (b.length - 8) = .ok (b.drop 8) := by
  refine memRead_ok_iff.mpr ⟨List.length_drop, fun i hi => ⟨by omega, ?_⟩⟩
  have hread := holds_putList s.scratch 0 b (8 + i) (by omega)
  rw [Nat.zero_add] at hread
  rw [List.getElem?_drop]
  exact hread

/-- A recognised blob of acceptable length with a whole header finds all it needs: its frame rests on the blob and on
PBITS alone. -/
theorem frameReady_copied {s : State} (hs : PreambleInPlace s) {b : List Byte} (hl : b.length + s.size < 254)
    (h8 : 8 ≤ b.length) :
    FrameReady b.length (copied b s) (b[1]'(by omega)) (b[2]'(by omega)) (b.drop 8)
      (preambleBytes s.pbits.toNat ++ [0xF0#8]) where
  header := h8
  beams := readByte_copied s (by omega) (List.getElem?_eq_getElem _)
  target _ := readByte_copied s (by omega) (List.getElem?_eq_getElem _)
  payload := memRead_copied_drop s (by omega) h8
  room := by rw [copied_size]; omega
  preLength := preamble_sof_length hs
  preamble := holds_preamble_sof hs

/-- What was fetched, delivered to another state. -/
def Fetched.deliverTo (s : State) : Fetched → Fetched
  | .command i t => .command i (s.setInput t.moves t.inb)
  | other => other

theorem accept_eq_deliverTo {s s' : State} (hi : s.inb = s'.inb) (port : BitVec 1) (kind : BitVec 2) (operand : Word)
    (rest : List HostMove) : accept port kind operand rest s' = (accept port kind operand rest s).deliverTo s' := by
  unfold accept
  rw [hi]
  split <;> rfl

/-- Fetching reads the host's input and nothing else of the state. -/
theorem fetch_eq_deliverTo {s s' : State} (hm : s.moves = s'.moves) (hi : s.inb = s'.inb) :
    fetch s' = (fetch s).deliverTo s' := by
  unfold fetch
  rw [hm, hi]
  split
  · rfl
  · split <;> rfl
  all_goals exact accept_eq_deliverTo hi _ _ _ _

end Sys2Proof.Machine

namespace Sys2Proof.Safety

open Sys2Proof.Machine

section
variable {s s' : State} (h : Indistinguishable s s')
include h

theorem Indistinguishable.size_eq : s.size = s'.size := by
  obtain ⟨-, hS, -, -⟩ := h.left
  obtain ⟨-, hS', -, -⟩ := h.right
  exact hS.trans (h.pbits ▸ hS'.symm)

theorem Indistinguishable.of_setInput (ms : List HostMove) (bs : List Byte) :
    Indistinguishable (s.setInput ms bs) (s'.setInput ms bs) :=
  ⟨h.left, h.right, h.pbits, h.done, h.out, h.err, rfl, rfl⟩

theorem Indistinguishable.of_raise (e : Err) : Indistinguishable (s.raise e) (s'.raise e) :=
  ⟨h.left, h.right, h.pbits, h.done, h.out, congrArg (· ++ [e]) h.err, h.moves, h.inb⟩

theorem Indistinguishable.of_close : Indistinguishable (s.emit .eosOut).close (s'.emit .eosOut).close :=
  ⟨h.left, h.right, h.pbits, rfl, congrArg (· ++ [OutMsg.eosOut]) h.out, h.err, h.moves, h.inb⟩

theorem Indistinguishable.of_configured {L : Word} (hL : L.toNat ≤ 2040) :
    Indistinguishable (configured L s) (configured L s') :=
  ⟨preambleInPlace_configured hL s, preambleInPlace_configured hL s', rfl, h.done, h.out, h.err, h.moves, h.inb⟩

theorem Indistinguishable.of_copied (b : List Byte) : Indistinguishable (copied b s) (copied b s') :=
  ⟨h.left, h.right, h.pbits, h.done, h.out, h.err, h.moves, h.inb⟩

theorem Indistinguishable.of_framed (k target : Byte) (payload pre : List Byte) :
    Indistinguishable (framed k target payload pre s) (framed k target payload pre s') :=
  ⟨preambleInPlace_framed k target payload pre h.left, preambleInPlace_framed k target payload pre h.right, h.pbits, h.done,
    congrArg (· ++ _ ++ _) h.out, h.err, h.moves, h.inb⟩

theorem Indistinguishable.frameEnds {b : List Byte} (hl : b.length + s.size < 254) :
    ∃ t t', FrameEnds b.length (copied b s) t ∧ FrameEnds b.length (copied b s') t' ∧ Indistinguishable t t' := by
  have hcopy := h.of_copied b
  by_cases h8 : b.length < 8
  · exact ⟨_, _, .short h8, .short h8, hcopy.of_raise _⟩
  · have hready := frameReady_copied h.left hl (Nat.le_of_not_lt h8)
    have hready' := frameReady_copied h.right (h.size_eq ▸ hl) (Nat.le_of_not_lt h8)
    rw [← h.pbits] at hready'
    exact ⟨_, _, .published hready, .published hready', hcopy.of_framed _ _ _ _⟩

theorem Indistinguishable.blobEnds (b : List Byte) (hd : s.done = false) :
    ∃ t t', Ends (.blob b) s t ∧ Ends (.blob b) s' t' ∧ Indistinguishable t t' := by
  have hd' : s'.done = false := h.done ▸ hd
  by_cases hb : b = []
  · subst hb; exact ⟨_, _, .lenZero hd, .lenZero hd', h.of_raise _⟩
  by_cases hl : b.length + s.size < 254
  · have hl' : b.length + s'.size < 254 := h.size_eq ▸ hl
    by_cases hm : b[0]? = some 0x01#8
    · obtain ⟨t, t', hf, hf', ht⟩ := h.frameEnds hl
      exact ⟨t, t', .recognised hd hb hl hm hf, .recognised hd' hb hl' hm hf', ht⟩
    · exact ⟨_, _, .dropped hd hb hl hm, .dropped hd' hb hl' hm, h.of_copied b⟩
  · have hl : 254 ≤ b.length + s.size := Nat.le_of_not_lt hl
    exact ⟨_, _, .lenOver hd hb hl, .lenOver hd' hb (h.size_eq ▸ hl), h.of_raise _⟩

/-- Two runs of one command that start indistinguishable both end, and end indistinguishable. -/
theorem Indistinguishable.ends {i : Instr} (hi : Transferable i) :
    ∃ t t', Ends i s t ∧ Ends i s' t' ∧ Indistinguishable t t' := by
  by_cases hclosed : isMessage i = true ∧ s.done = true
  · obtain ⟨hmsg, hd⟩ := hclosed
    exact ⟨_, _, .closed hmsg hd, .closed hmsg (h.done ▸ hd), h.of_raise _⟩
  have active : isMessage i = true → s.done = false := fun hmsg =>
    Bool.eq_false_iff.mpr fun hd => hclosed ⟨hmsg, hd⟩
  cases i with
  | cfg L =>
    by_cases hL : L.toNat ≤ 2040
    · exact ⟨_, _, .configured hL, .configured hL, h.of_configured hL⟩
    · have hL : 2040 < L.toNat := Nat.lt_of_not_le hL
      exact ⟨_, _, .cfgRange hL, .cfgRange hL, h.of_raise _⟩
  | blob b => exact h.blobEnds b (active rfl)
  | eos => exact ⟨_, _, .eos (active rfl), .eos (h.done ▸ active rfl), h.of_close⟩
  | bad => exact ⟨_, _, .bad (active rfl), .bad (h.done ▸ active rfl), h.of_raise _⟩
  | frame => exact absurd rfl hi.1
  | drop => exact absurd rfl hi.2

end

/-- Two steps that start indistinguishable go on to indistinguishable states or stop alike. -/
theorem Indistinguishable.steps_alike {s s' : State} (h : Indistinguishable s s') :
    (∃ t t', step s = .next t ∧ step s' = .next t' ∧ Indistinguishable t t') ∨
      (∃ f, step s = .fault f ∧ step s' = .fault f) ∨ ∃ r, step s = .refused r ∧ step s' = .refused r := by
  have hf' := fetch_eq_deliverTo h.moves h.inb
  obtain ⟨-, hf⟩ | ⟨L, ms, -, ⟨-, hf⟩ | ⟨hL, hf⟩⟩ | hf | ⟨i, ms, bs, hf, hi⟩ := fetch_cases s <;> rw [hf] at hf'
  · exact .inl ⟨s, s', step_of_fetch_idle hf, step_of_fetch_idle hf', h⟩
  · exact .inr (.inr ⟨_, step_of_fetch_refused hf, step_of_fetch_refused hf'⟩)
  · have hreset := preambleInPlace_afterReset hL ms s.inb
    exact .inl ⟨_, _, step_of_fetch_event hf, step_of_fetch_event hf', ⟨hreset, hreset, rfl, rfl, rfl, rfl, rfl, rfl⟩⟩
  · exact .inr (.inl ⟨_, step_of_fetch_stuck hf, step_of_fetch_stuck hf'⟩)
  · obtain ⟨t, t', hends, hends', ht⟩ := (h.of_setInput ms bs).ends hi
    exact .inl ⟨t, t', (step_of_fetch_command hf).trans (exec_next_iff_ends.mpr hends),
      (step_of_fetch_command hf').trans (exec_next_iff_ends.mpr hends'), ht⟩

/-- Settles O36: the two steps are of one kind, and each kind of answer excludes the others. -/
theorem hiddenStateIsNeverObserved : Obligations.HiddenStateIsNeverObserved := by
  intro s s' h
  obtain ⟨t, t', hs, hs', ht⟩ | ⟨f, hs, hs'⟩ | ⟨r, hs, hs'⟩ := h.steps_alike <;> rw [hs, hs']
  · exact ⟨fun _ hu => ⟨t', rfl, by cases hu; exact ht⟩, nofun, nofun⟩
  · exact ⟨nofun, fun _ hg => hg, nofun⟩
  · exact ⟨nofun, nofun, fun _ hq => hq⟩

end Sys2Proof.Safety
end

section
/-! The two memories through a step (spec/20_memory.md R50, R62), and the one order in which two offers at one edge are
served (R57). -/

namespace Sys2Proof.Machine

open Sys2Proof.Safety

/-- Settles O30: every write of a step lands inside its 256 cells, and such a write keeps the addresses rising. -/
theorem stepKeepsMemoriesCanonical : Obligations.StepKeepsMemoriesCanonical := fun _ _ hs h =>
  memoriesCanonical_stepInvariant.keeps_step hs h

theorem indistinguishable_refl {s : State} (h : PreambleInPlace s) : Indistinguishable s s :=
  ⟨h, h, rfl, rfl, rfl, rfl, rfl, rfl⟩

/-- A command that the ports can carry always goes on when the preamble is in place. -/
theorem exists_exec_next {s : State} (h : PreambleInPlace s) {i : Instr} (hi : Transferable i) :
    ∃ t, exec i s = .next t := by
  obtain ⟨t, -, hends, -, -⟩ := (indistinguishable_refl h).ends hi
  exact ⟨t, exec_next_iff_ends.mpr hends⟩

/-- The three answers of a step: both stops come from the fetch, before any memory is accessed. -/
theorem step_answers {s : State} (h : PreambleInPlace s) :
    (∃ t, step s = .next t) ∨ step s = .fault .awaitingBlobBytes ∨ step s = .refused .strapOutOfRange := by
  obtain ⟨-, hf⟩ | ⟨L, ms, -, ⟨-, hf⟩ | ⟨-, hf⟩⟩ | hf | ⟨i, ms, bs, hf, hi⟩ := fetch_cases s
  · exact .inl ⟨s, step_of_fetch_idle hf⟩
  · exact .inr (.inr (step_of_fetch_refused hf))
  · exact .inl ⟨_, step_of_fetch_event hf⟩
  · exact .inr (.inl (step_of_fetch_stuck hf))
  · have hinput : PreambleInPlace (s.setInput ms bs) := h
    obtain ⟨t, ht⟩ := exists_exec_next hinput hi
    exact .inl ⟨t, (step_of_fetch_command hf).trans ht⟩

/-- Settles O35: a fetched command goes on, so a step stops only where the fetch does. -/
theorem stepStopsOnlyForTheHost : Obligations.StepStopsOnlyForTheHost := by
  intro s h
  obtain ⟨t, hs⟩ | hs | hs := step_answers h <;> rw [hs]
  · exact ⟨nofun, nofun⟩
  · exact ⟨fun _ hf => (Host.Outcome.fault.inj hf).symm, nofun⟩
  · exact ⟨nofun, fun _ hr => (Host.Outcome.refused.inj hr).symm⟩

theorem dispatchWord_cfg_and_mask : ∀ kind : BitVec 2, dispatchWord 1#1 kind &&& 0b100#3 = 0b100#3 := by decide

/-- A transfer on port `cfg` is a `CFG`, whatever the kind wires hold, and takes no bytes (30_encoding R85, R73). -/
theorem accept_cfg (kind : BitVec 2) (L : Word) (rest : List HostMove) (s : State) :
    accept 1#1 kind L rest s = .command (.cfg L) (s.setInput rest s.inb) := by
  have hd : decodeD1 (dispatchWord 1#1 kind) L s.inb = .ok (.cfg L, s.inb) := if_pos (dispatchWord_cfg_and_mask kind)
  simp only [accept, hd]

theorem step_of_moves_cfg {s : State} {kind : BitVec 2} {L : Word} {rest : List HostMove}
    (hm : s.moves = .cfg kind L :: rest) : step s = exec (.cfg L) (s.setInput rest s.inb) :=
  step_of_fetch_command (by simp only [fetch, hm, accept_cfg])

/-- With both ports offering, the configuration is executed and the descriptor stays offered. -/
theorem step_of_moves_both {s : State} {L : Word} {kind : BitVec 2} {len : Word} {rest : List HostMove}
    (hm : s.moves = .both L kind len :: rest) : step s = exec (.cfg L) (s.setInput (.ind kind len :: rest) s.inb) :=
  step_of_fetch_command (by simp only [fetch, hm, accept_cfg])

/-- Settles O7: the simultaneous offer and the two offers in turn are fetched as one `CFG` before the same input. -/
theorem configurationPortServedFirst : Obligations.ConfigurationPortServedFirst := by
  intro s L kind len rest hm
  have hboth := step_of_moves_both hm
  have hcfg := step_of_moves_cfg (s := { s with moves := .cfg kind L :: .ind kind len :: rest }) rfl
  exact ⟨hboth.trans hcfg.symm, hboth⟩

end Sys2Proof.Machine
end

section
/-! What the first-stage decoder gives for each dispatch word, and that the encoder's words are read back
(spec/30_encoding.md R72, R82, R85, R86). -/

namespace Sys2Proof

theorem decodeD1_cfg {w : BitVec 3} (h : w &&& 0b100#3 = 0b100#3) (operand : Word) (inb : List Byte) :
    decodeD1 w operand inb = .ok (.cfg operand, inb) := if_pos h

theorem decodeD1_blob {operand : Word} {inb : List Byte} (h : operand.toNat ≤ inb.length) :
    decodeD1 0b000#3 operand inb = .ok (.blob (inb.take operand.toNat), inb.drop operand.toNat) :=
  if_neg (Nat.not_lt.mpr h)

@[simp] theorem decodeD1_eos (operand : Word) (inb : List Byte) : decodeD1 0b001#3 operand inb = .ok (.eos, inb) := rfl

@[simp] theorem decodeD1_bad (operand : Word) (inb : List Byte) : decodeD1 0b010#3 operand inb = .ok (.bad, inb) := rfl

/-- The reserved kind is a second word of `BAD` (30_encoding R89). -/
@[simp] theorem decodeD1_reserved (operand : Word) (inb : List Byte) : decodeD1 0b011#3 operand inb = .ok (.bad, inb) := rfl

/-- A length a descriptor can carry cuts the blob off the bytes behind it. -/
theorem decodeD1_blob_append {bytes : List Byte} (h : bytes.length < 65536) (rest : List Byte) :
    decodeD1 0b000#3 (BitVec.ofNat 16 bytes.length) (bytes ++ rest) = .ok (.blob bytes, rest) := by
  have hlen : (BitVec.ofNat 16 bytes.length).toNat = bytes.length := Nat.mod_eq_of_lt h
  rw [decodeD1_blob (by rw [hlen, List.length_append]; omega), hlen, List.take_left, List.drop_left]

theorem decodeD2_recognised (dataLen : Nat) : decodeD2 0x01#8 dataLen = .frame dataLen := rfl

theorem decodeD2_of_ne {m : Byte} (h : m ≠ 0x01#8) (dataLen : Nat) : decodeD2 m dataLen = .drop m := if_neg h

/-- Settles O40: a first-stage word is read back by its row, a blob by its 16-bit length, a marker by R86. -/
theorem decodeOfEncodeIsIdentity : Obligations.DecodeOfEncodeIsIdentity := by
  intro i rest hwf
  cases i with
  | cfg bitLength => exact decodeD1_cfg (by decide) bitLength rest
  | blob bytes => exact decodeD1_blob_append (of_decide_eq_true hwf) rest
  | eos => exact decodeD1_eos 0#16 rest
  | bad => exact decodeD1_bad 0#16 rest
  | frame dataLen =>
    have hlen : (BitVec.ofNat 16 dataLen).toNat = dataLen := Nat.mod_eq_of_lt (of_decide_eq_true hwf)
    simp only [encode, decode, hlen, decodeD2_recognised]
  | drop marker => simp only [encode, decode, decodeD2_of_ne (of_decide_eq_true hwf)]

/-- Settles O42: each word is evaluated by the decoder. -/
theorem writtenOutWordsDecode : Obligations.WrittenOutWordsDecode := by
  unfold Obligations.WrittenOutWordsDecode
  decide

end Sys2Proof
end

section
/-! The dispatch word alone decides which row of the opcode map is selected, and the decoder takes that row
(spec/30_encoding.md R85 to R87). -/

namespace Sys2Proof

/-- The mnemonic of a first-stage dispatch word (30_encoding R85). -/
def mnemonicOfD1 (w : BitVec 3) : Mnemonic :=
  if w &&& 0b100#3 = 0b100#3 then .cfg else if w = 0b000#3 then .blob else if w = 0b001#3 then .eos else .bad

theorem mnemonic_of_decodeD1 {w : BitVec 3} {operand : Word} {inb left : List Byte} {i : Instr}
    (h : decodeD1 w operand inb = .ok (i, left)) : i.mnemonic = mnemonicOfD1 w := by
  unfold decodeD1 at h
  unfold mnemonicOfD1
  split at h
  · cases h; rw [if_pos ‹_›]; rfl
  · rw [if_neg ‹_›]
    split at h
    · rw [if_pos ‹_›]
      split at h <;> cases h
      rfl
    · rw [if_neg ‹_›]
      split at h <;> cases h
      · rw [if_pos ‹_›]; rfl
      · rw [if_neg ‹_›]; rfl

theorem selectedRows_d1 : ∀ w : BitVec 3, (selectedRows .d1 w.toNat).map OpcodeRow.mnemonic = [mnemonicOfD1 w] := by
  decide

theorem selectedRows_d2 (w : Byte) (dataLen : Nat) :
    (selectedRows .d2 w.toNat).map OpcodeRow.mnemonic = [(decodeD2 w dataLen).mnemonic] := by
  by_cases hw : w = 0x01#8
  · subst hw; exact Laws.RowSelected.frame 0 rfl
  · rw [decodeD2_of_ne hw]; exact Laws.RowSelected.drop w (decide_eq_true hw)

/-- Settles O41: the first stage selects the row of its word's mnemonic, the second that of `FRAME` or `DROP`. -/
theorem everyDispatchWordSelectsOneRow : Obligations.EveryDispatchWordSelectsOneRow :=
  ⟨fun w _ _ _ _ h => mnemonic_of_decodeD1 h ▸ selectedRows_d1 w, selectedRows_d2⟩

end Sys2Proof

namespace Sys2Proof.Machine

theorem transferable_of_decodeD1 {w : BitVec 3} {operand : Word} {inb left : List Byte} {i : Instr}
    (h : decodeD1 w operand inb = .ok (i, left)) : Transferable i := by
  have hrow : ∀ w, mnemonicOfD1 w ≠ .frame ∧ mnemonicOfD1 w ≠ .drop := by decide
  rw [Transferable, mnemonic_of_decodeD1 h]
  exact hrow w

end Sys2Proof.Machine
end

section
/-! A transfer at the ports is the command its dispatch word, operand and bytes decode to (spec/30_encoding.md R70 to R74,
R82, R85, R89, R93), and its bytes are gone whatever the command ends in (R73). -/

namespace Sys2Proof.Machine

open Sys2Proof.Safety

theorem accept_of_decodeD1 {s : State} {port : BitVec 1} {kind : BitVec 2} {operand : Word} {i : Instr}
    {left : List Byte} (h : decodeD1 (dispatchWord port kind) operand s.inb = .ok (i, left)) (rest : List HostMove) :
    accept port kind operand rest s = .command i (s.setInput rest left) := by
  simp only [accept, h]

theorem step_of_moves_ind {s : State} {kind : BitVec 2} {len : Word} {rest : List HostMove} {i : Instr}
    {left : List Byte} (hm : s.moves = .ind kind len :: rest)
    (h : decodeD1 (dispatchWord 0#1 kind) len s.inb = .ok (i, left)) : step s = exec i (s.setInput rest left) :=
  step_of_fetch_command (by simp only [fetch, hm, accept_of_decodeD1 h])

/-- Settles O6: each of the three offers is accepted as the decoded command, the simultaneous one on port `cfg`. -/
theorem stepRunsDecodedCommand : Obligations.StepRunsDecodedCommand := by
  intro s kind operand len rest i left _
  refine ⟨fun h hm => step_of_moves_ind hm h, fun h hm => ?_, fun h hm => ?_⟩
  · exact step_of_fetch_command (u := s.setInput rest left) (by simp only [fetch, hm, accept_of_decodeD1 h])
  · exact step_of_fetch_command (u := s.setInput (.ind kind len :: rest) left)
      (by simp only [fetch, hm, accept_of_decodeD1 h])

/-- What a descriptor takes from `inb` (30_encoding R73). -/
def bytesLeft (kind : BitVec 2) (len : Word) (inb : List Byte) : List Byte :=
  if kind = 0#2 then inb.drop len.toNat else inb

/-- The four descriptors of R82 and R89: with the bytes sent, each decodes to a command that leaves the other bytes. -/
theorem exists_decodeD1_ind (kind : BitVec 2) {len : Word} {inb : List Byte} (h : kind = 0#2 → len.toNat ≤ inb.length) :
    ∃ i, decodeD1 (dispatchWord 0#1 kind) len inb = .ok (i, bytesLeft kind len inb) := by
  have hkind : ∀ kind : BitVec 2, kind = 0b00#2 ∨ kind = 0b01#2 ∨ kind = 0b10#2 ∨ kind = 0b11#2 := by decide
  obtain rfl | rfl | rfl | rfl := hkind kind
  · exact ⟨_, decodeD1_blob (h rfl)⟩
  · exact ⟨_, decodeD1_eos len inb⟩
  · exact ⟨_, decodeD1_bad len inb⟩
  · exact ⟨_, decodeD1_reserved len inb⟩

/-- No command touches what the host has yet to deliver. -/
theorem Ends.keeps_input {i : Instr} {s t : State} (h : Ends i s t) : t.moves = s.moves ∧ t.inb = s.inb := by
  cases h with
  | recognised _ _ _ _ hf => cases hf <;> exact ⟨rfl, rfl⟩
  | frame hf => cases hf <;> exact ⟨rfl, rfl⟩
  | _ => exact ⟨rfl, rfl⟩

/-- Settles O8: the bytes are taken with the descriptor, the command then goes on, and no ending gives any back. -/
theorem blobBytesDrainedWhateverOutcome : Obligations.BlobBytesDrainedWhateverOutcome := by
  intro s kind len rest hs hm hsent
  obtain ⟨i, hdec⟩ := exists_decodeD1_ind kind hsent
  have hinput : PreambleInPlace (s.setInput rest (bytesLeft kind len s.inb)) := hs
  obtain ⟨t, ht⟩ := exists_exec_next hinput (transferable_of_decodeD1 hdec)
  obtain ⟨hmoves, hinb⟩ := (exec_next_iff_ends.mp ht).keeps_input
  exact ⟨t, (step_of_moves_ind hm hdec).trans ht, hmoves, hinb⟩

/-- Settles O10: the reserved kind decodes to `BAD`, which has one ending in each lifecycle state. -/
theorem reservedKindRaisesBadShape : Obligations.ReservedKindRaisesBadShape := by
  intro s len rest hm
  rw [step_of_moves_ind hm (decodeD1_reserved len s.inb)]
  exact ⟨fun hd => exec_next_iff_ends.mpr (.bad hd), fun hd => exec_next_iff_ends.mpr (.closed rfl hd)⟩

theorem deliver_moves {s : State} (hm : s.moves = []) (line : TraceLine) : (s.deliver [line]).moves = [line.move] := by
  simp [State.deliver, hm]

theorem deliver_inb {s : State} (hi : s.inb = []) (line : TraceLine) : (s.deliver [line]).inb = line.bytes := by
  simp [State.deliver, hi]

/-- Taking what was delivered leaves the block as it was. -/
theorem deliver_setInput {s : State} (hm : s.moves = []) (hi : s.inb = []) (trace : List TraceLine) :
    (s.deliver trace).setInput [] [] = s := by
  obtain ⟨⟩ := s
  subst hm hi
  rfl

/-- A line that makes a descriptor is the command that the descriptor and the line's bytes decode to. -/
theorem step_deliver_of_decodeD1 {s : State} (hm : s.moves = []) (hi : s.inb = []) {line : TraceLine} {kind : BitVec 2}
    {len : Word} {i : Instr} (hmove : line.move = .ind kind len)
    (h : decodeD1 (dispatchWord 0#1 kind) len line.bytes = .ok (i, [])) : step (s.deliver [line]) = exec i s := by
  have hmoves := deliver_moves hm line
  have hinb := deliver_inb hi line
  rw [hmove] at hmoves
  rw [step_of_moves_ind hmoves (hinb ▸ h), deliver_setInput hm hi]

/-- Settles O11: each line's move is fetched alone, with the line's bytes and no others behind it. -/
theorem deliveredLineIsExecuted : Obligations.DeliveredLineIsExecuted := by
  intro s hm hi
  refine ⟨fun L => ?_, step_deliver_of_decodeD1 hm hi rfl rfl, step_deliver_of_decodeD1 hm hi rfl rfl, fun b hb => ?_,
    fun strap hstrap => ?_⟩
  · have hinb : (s.deliver [.cfg L]).inb = [] := deliver_inb hi (.cfg L)
    rw [step_of_moves_cfg (deliver_moves hm (.cfg L)), hinb, deliver_setInput hm hi]
  · have hdec := decodeD1_blob_append hb []
    rw [List.append_nil] at hdec
    exact step_deliver_of_decodeD1 hm hi rfl hdec
  · have hinb : (s.deliver [.reset strap]).inb = [] := deliver_inb hi (.reset strap)
    rw [step_of_moves_reset (deliver_moves hm (.reset strap)) hstrap, hinb]

end Sys2Proof.Machine
end

section
/-! The second stage of a `BLOB` is the command its marker decodes to (spec/30_encoding.md R86,
spec/42_frame_processor.md R144, R150). -/

namespace Sys2Proof.Machine

/-- A `BLOB` that passes both checks copies its bytes and goes on. -/
theorem execBlob_eq_secondStage {s : State} {b : List Byte} (hd : s.done = false) (hb : b.length ≠ 0)
    (hl : b.length + s.size < 254) : execBlob b s = secondStage b.length (copied b s) := by
  have hover : lenOver s.size b.length = false := (lenOver_eq_false_iff _ _).mpr hl
  have hcopy : s.writeScratch 0 b = .ok (copied b s) := writeScratch_ok_iff.mpr ⟨by omega, rfl⟩
  simp [execBlob, whenActive, hd, hb, hover, hcopy]

theorem secondStage_eq_exec_decodeD2 {s : State} {m : Byte} (h : s.marker = .ok m) (dataLen : Nat) :
    secondStage dataLen s = exec (decodeD2 m dataLen) s := by
  rw [secondStage, h, onOk_ok, config_marker]
  by_cases hm : m = 0x01#8
  · subst hm; rfl
  · rw [if_pos hm, decodeD2_of_ne hm]; rfl

/-- Settles O22: the marker read back from SCRATCH is the blob's first byte, and the dispatch on it is the decoder's. -/
theorem blobGoesOnAsSecondStage : Obligations.BlobGoesOnAsSecondStage := by
  intro s m rest hd hl
  have hmarker : (copied (m :: rest) s).marker = .ok m := readByte_copied s (by omega) rfl
  have hblob := execBlob_eq_secondStage (b := m :: rest) hd (Nat.succ_ne_zero rest.length) hl
  exact ⟨hblob.trans (secondStage_eq_exec_decodeD2 hmarker _), rfl⟩

end Sys2Proof.Machine
end

section
/-! What a step adds to the two output sequences (spec/30_encoding.md R78, spec/20_memory.md R61,
spec/42_frame_processor.md R140). -/

namespace Sys2Proof.Machine

/-- OUT took some messages and ERR none, or ERR took one error and OUT nothing. -/
def AppendsToOne (s t : State) : Prop :=
  (∃ msgs, t.out = s.out ++ msgs ∧ t.err = s.err) ∨ ∃ e, t.out = s.out ∧ t.err = s.err ++ [e]

theorem appendsToOne_of_eq {s t : State} (hout : t.out = s.out) (herr : t.err = s.err) : AppendsToOne s t :=
  .inl ⟨[], by rw [hout, List.append_nil], herr⟩

theorem FrameEnds.appendsToOne {d : Nat} {s t : State} (h : FrameEnds d s t) : AppendsToOne s t := by
  cases h with
  | short => exact .inr ⟨.shortHdr, rfl, rfl⟩
  | published => exact .inl ⟨_, List.append_assoc _ _ _, rfl⟩

theorem Ends.appendsToOne {i : Instr} {s t : State} (h : Ends i s t) : AppendsToOne s t := by
  cases h with
  | cfgRange | closed | bad | lenZero | lenOver => exact .inr ⟨_, rfl, rfl⟩
  | configured | dropped | drop => exact appendsToOne_of_eq rfl rfl
  | eos => exact .inl ⟨[.eosOut], rfl, rfl⟩
  | recognised _ _ _ _ hf => exact hf.appendsToOne
  | frame hf => exact hf.appendsToOne

theorem appendsToOne_of_step {s t : State} (h : step s = .next t) (hne : ∀ u, fetch s ≠ .event u) :
    AppendsToOne s t := by
  obtain ⟨-, hf⟩ | ⟨L, ms, -, ⟨-, hf⟩ | ⟨-, hf⟩⟩ | hf | ⟨i, ms, bs, hf, -⟩ := fetch_cases s
  · rw [step_of_fetch_idle hf] at h; cases h; exact appendsToOne_of_eq rfl rfl
  · rw [step_of_fetch_refused hf] at h; cases h
  · exact absurd hf (hne _)
  · rw [step_of_fetch_stuck hf] at h; cases h
  · rw [step_of_fetch_command hf] at h
    exact (exec_next_iff_ends.mp h).appendsToOne

/-- Settles O39: every ending of a command adds to one of the two sequences at most. -/
theorem outputsOnlyAppended : Obligations.OutputsOnlyAppended := by
  intro s t h hne
  obtain ⟨msgs, hout, herr⟩ | ⟨e, hout, herr⟩ := appendsToOne_of_step h hne
  · exact ⟨msgs, [], hout, by rw [herr, List.append_nil], Nat.zero_le 1, .inl rfl⟩
  · exact ⟨[], [e], by rw [hout, List.append_nil], herr, Nat.le_refl 1, .inr rfl⟩

end Sys2Proof.Machine
end

section
/-! The transfers of a message on port `out` (spec/30_encoding.md R76, R77, R80). -/

namespace Sys2Proof.Machine

open Sys2Proof.Safety

/-- `out_last` stands on the final byte and on no other. -/
theorem transfersOf_append_singleton (kind : BitVec 2) (init : List Byte) (final : Byte) :
    transfersOf kind (init ++ [final]) = init.map (fun b => ⟨kind, b, false⟩) ++ [⟨kind, final, true⟩] := by
  induction init with
  | nil => rfl
  | cons b init ih =>
    rw [List.map_cons, List.cons_append, List.cons_append, ← ih]
    cases init <;> rfl

theorem kind_of_mem_transfersOf {kind : BitVec 2} {bytes : List Byte} {x : OutTransfer} (h : x ∈ transfersOf kind bytes) :
    x.kind = kind := by
  obtain rfl | ⟨init, final, rfl⟩ := List.eq_nil_or_concat bytes
  · cases h
  · rw [List.concat_eq_append, transfersOf_append_singleton] at h
    simp only [List.mem_append, List.mem_map, List.mem_singleton] at h
    obtain ⟨b, -, rfl⟩ | rfl := h <;> rfl

theorem kindCode_ne_reserved (m : OutMsg) : m.kindCode ≠ 0b11#2 := by
  cases m <;> simp [OutMsg.kindCode]

/-- A frame has its SOF byte and its pad byte at least. -/
theorem two_le_length_of_isPhysicalFrame {bytes : List Byte} (h : IsPhysicalFrame bytes) : 2 ≤ bytes.length := by
  obtain ⟨L, payload, -, -, rfl⟩ := h
  simp only [List.length_append, List.length_singleton]
  omega

/-- Settles O43: the transfers of a message are those of its bytes, all of its kind. -/
theorem outboundTransfers : Obligations.OutboundTransfers :=
  ⟨transfersOf_append_singleton _, rfl, fun _ => rfl,
    fun m _ hx => (kind_of_mem_transfersOf hx).symm ▸ kindCode_ne_reserved m,
    fun _ bytes hs hb => two_le_length_of_isPhysicalFrame (hs bytes hb)⟩

end Sys2Proof.Machine
end

section
/-! The bytes of the preamble (spec/40_preamble_builder.md R102, R103, R106): their closed form, and the number they
spell. -/

namespace Sys2Proof.Machine

/-- The mask keeps the low bits of the first byte. -/
theorem boundaryMask_eq {r : Nat} (h : r < 8) : boundaryMask r = BitVec.ofNat 8 (2 ^ r - 1) :=
  (by decide : ∀ k : Fin 8, boundaryMask k = BitVec.ofNat 8 (2 ^ k.val - 1)) ⟨r, h⟩

/-- The first branch of R102 is taken for no byte of the preamble. -/
theorem lt_length_of_lt_ceil8 {L i : Nat} (h : i < ceil8 L) : (ceil8 L - (i + 1)) * 8 < L := by
  rw [ceil8_eq_div] at h ⊢
  omega

/-- The second branch of R102 is taken for the first byte alone, and only when it is not whole. -/
theorem length_lt_iff_boundary {L i : Nat} (h : i < ceil8 L) : L < (ceil8 L - i) * 8 ↔ i = 0 ∧ L % 8 ≠ 0 := by
  rw [ceil8_eq_div] at h ⊢
  omega

theorem preambleByte_eq {L i : Nat} (h : i < ceil8 L) :
    preambleByte L (ceil8 L) i =
      if i = 0 ∧ L % 8 ≠ 0 then 0x55#8 &&& BitVec.ofNat 8 (2 ^ (L % 8) - 1) else 0x55#8 := by
  have hdead : ¬ L ≤ (ceil8 L - (i + 1)) * 8 := Nat.not_le.mpr (lt_length_of_lt_ceil8 h)
  have hmask : boundaryMask (L % 8) = BitVec.ofNat 8 (2 ^ (L % 8) - 1) := boundaryMask_eq (Nat.mod_lt L (by decide))
  simp only [preambleByte, if_neg hdead, length_lt_iff_boundary h, hmask, config_pattern]

theorem preambleBytes_zero : preambleBytes 0 = [] := rfl

theorem preambleBytes_of_whole {L : Nat} (h : L % 8 = 0) : preambleBytes L = List.replicate (ceil8 L) 0x55#8 := by
  refine List.ext_getElem? fun i => ?_
  rw [preambleBytes_getElem?, List.getElem?_replicate]
  by_cases hi : i < ceil8 L
  · rw [if_pos hi, if_pos hi, preambleByte_eq hi, if_neg fun hb => hb.2 h]
  · rw [if_neg hi, if_neg hi]

theorem preambleBytes_of_partial {L : Nat} (h : L % 8 ≠ 0) :
    preambleBytes L = (0x55#8 &&& BitVec.ofNat 8 (2 ^ (L % 8) - 1)) :: List.replicate (L / 8) 0x55#8 := by
  have hS : ceil8 L = L / 8 + 1 := by rw [ceil8_eq_div]; omega
  refine List.ext_getElem? fun i => ?_
  rw [preambleBytes_getElem?]
  cases i with
  | zero => rw [if_pos (by omega), preambleByte_eq (by omega), if_pos ⟨rfl, h⟩, List.getElem?_cons_zero]
  | succ i =>
    rw [List.getElem?_cons_succ, List.getElem?_replicate]
    by_cases hi : i < L / 8
    · rw [if_pos (by omega), if_pos hi, preambleByte_eq (by omega), if_neg fun hb => Nat.succ_ne_zero i hb.1]
    · rw [if_neg (by omega), if_neg hi]

/-- Settles O13: the second branch of the three-way test is the first byte's alone, the first branch nobody's. -/
theorem preambleBytesClosedForm : Obligations.PreambleBytesClosedForm := by
  intro L
  rw [← ceil8_eq_div]
  refine ⟨?_, fun i hi => Nat.not_le.mpr (lt_length_of_lt_ceil8 hi)⟩
  by_cases h0 : L = 0
  · subst h0; exact preambleBytes_zero
  rw [if_neg h0]
  by_cases h8 : L % 8 = 0
  · rw [if_pos h8, preambleBytes_of_whole h8]
  · have hS : ceil8 L - 1 = L / 8 := by rw [ceil8_eq_div]; omega
    rw [if_neg h8, preambleBytes_of_partial h8, hS]

/-- The number that bytes spell, the most significant first, behind the bytes already read into `acc`. -/
def beValue (acc : Nat) (bytes : List Byte) : Nat := bytes.foldl (fun acc b => acc * 256 + b.toNat) acc

/-- The pattern ...01010101 of `n + 1` bytes is that of `n` bytes with 0x55 before it. -/
theorem pattern_succ (n : Nat) : (256 ^ (n + 1) - 1) / 3 = 85 * 256 ^ n + (256 ^ n - 1) / 3 := by
  have hpos : 0 < 256 ^ n := by positivity
  omega

theorem beValue_replicate_pattern (acc n : Nat) :
    beValue acc (List.replicate n 0x55#8) = acc * 256 ^ n + (256 ^ n - 1) / 3 := by
  induction n generalizing acc with
  | zero => simp [beValue]
  | succ n ih =>
    have hcons : beValue acc (List.replicate (n + 1) 0x55#8) = beValue (acc * 256 + 85) (List.replicate n 0x55#8) := rfl
    rw [hcons, ih, pattern_succ]
    ring

theorem toNat_boundaryByte {r : Nat} (h : r < 8) : (0x55#8 &&& BitVec.ofNat 8 (2 ^ r - 1)).toNat = 85 % 2 ^ r :=
  (by decide : ∀ k : Fin 8, (0x55#8 &&& BitVec.ofNat 8 (2 ^ k.val - 1)).toNat = 85 % 2 ^ k.val) ⟨r, h⟩

/-- Cutting the pattern inside its first byte cuts that byte and leaves those behind it. -/
theorem pattern_mod (n r : Nat) :
    ((256 ^ (n + 1) - 1) / 3) % (256 ^ n * 2 ^ r) = 85 % 2 ^ r * 256 ^ n + (256 ^ n - 1) / 3 := by
  have hpos : 0 < 256 ^ n := by positivity
  have hsmall : (256 ^ n - 1) / 3 < 256 ^ n := by omega
  have hdiv : (85 * 256 ^ n + (256 ^ n - 1) / 3) / 256 ^ n = 85 := by
    rw [Nat.mul_comm, Nat.mul_add_div hpos, Nat.div_eq_of_lt hsmall]
  rw [pattern_succ, Nat.mod_mul, hdiv, Nat.mul_add_mod', Nat.mod_eq_of_lt hsmall]
  ring

theorem beValue_preambleBytes (L : Nat) :
    beValue 0 (preambleBytes L) = ((2 ^ (8 * ceil8 L) - 1) / 3) % 2 ^ L := by
  rw [Nat.pow_mul, show 2 ^ 8 = 256 from rfl]
  by_cases h8 : L % 8 = 0
  · have hL : 8 * ceil8 L = L := by rw [ceil8_eq_div]; omega
    have hpow : 2 ^ L = 256 ^ ceil8 L := by rw [show 256 = 2 ^ 8 from rfl, ← Nat.pow_mul, hL]
    have hpos : 0 < 256 ^ ceil8 L := by positivity
    rw [preambleBytes_of_whole h8, beValue_replicate_pattern, hpow, Nat.mod_eq_of_lt (by omega), Nat.zero_mul,
      Nat.zero_add]
  · have hS : ceil8 L = L / 8 + 1 := by rw [ceil8_eq_div]; omega
    have hpow : 2 ^ L = 256 ^ (L / 8) * 2 ^ (L % 8) := by
      rw [show 256 = 2 ^ 8 from rfl, ← Nat.pow_mul, ← Nat.pow_add, Nat.div_add_mod]
    have hhead := toNat_boundaryByte (Nat.mod_lt L (show 0 < 8 by decide))
    rw [preambleBytes_of_partial h8, hS, hpow, pattern_mod, ← hhead, ← beValue_replicate_pattern]
    simp [beValue]

/-- Every byte of the preamble ends in a 1 bit. -/
theorem preambleByte_lsb {L i : Nat} (h : i < ceil8 L) : (preambleByte L (ceil8 L) i).getLsbD 0 = true := by
  rw [preambleByte_eq h]
  split
  · rename_i hb
    have hr : 0 < L % 8 := Nat.pos_of_ne_zero hb.2
    rw [BitVec.getLsbD_and, BitVec.getLsbD_ofNat _ (2 ^ (L % 8) - 1), Nat.testBit_two_pow_sub_one, decide_eq_true hr]
    rfl
  · rfl

/-- Settles O14: the boundary byte is 0x55 modulo 2 to the number of its bits, so it cuts the pattern at `L`. -/
theorem preambleIsRightAligned : Obligations.PreambleIsRightAligned := by
  intro L
  rw [← ceil8_eq_div]
  refine ⟨beValue_preambleBytes L, fun hL => ?_⟩
  have hlast : ceil8 L - 1 < ceil8 L := by rw [ceil8_eq_div]; omega
  refine ⟨_, ?_, preambleByte_lsb hlast⟩
  rw [List.getLast?_eq_getElem?, preambleBytes_length, preambleBytes_getElem?, if_pos hlast]

end Sys2Proof.Machine
end

section
/-! What an accepted `CFG` leaves (spec/40_preamble_builder.md R100, R101, R105, R108, R109). -/

namespace Sys2Proof.Machine

open Sys2Proof.Safety

theorem exec_cfg_of_le {L : Word} (h : L.toNat ≤ 2040) (s : State) : exec (.cfg L) s = .next (configured L s) :=
  exec_next_iff_ends.mpr (.configured h)

/-- The cells of PBUF an accepted `CFG` leaves: the preamble, the SOF byte, and above it what was there. -/
theorem read_configured (L : Word) (s : State) (a : Nat) :
    (configured L s).pbuf.read a =
      if a < ceil8 L.toNat then some (preambleByte L.toNat (ceil8 L.toNat) a)
      else if a = ceil8 L.toNat then some 0xF0#8 else s.pbuf.read a :=
  read_preamble_sof s.pbuf L.toNat a

theorem read_configured_of_gt {L : Word} {s : State} {a : Nat} (h : ceil8 L.toNat < a) :
    (configured L s).pbuf.read a = s.pbuf.read a := by
  rw [read_configured, if_neg (by omega), if_neg (by omega)]

/-- Settles O12: the cells up to the SOF byte are those of a preamble in place, those above are read as before. -/
theorem cfgWritesPreambleOrRefuses : Obligations.CfgWritesPreambleOrRefuses := by
  intro s L
  refine ⟨fun hL => ?_, fun hL => exec_next_iff_ends.mpr (.cfgRange hL)⟩
  obtain ⟨-, hS, hpre, hsof⟩ := preambleInPlace_configured hL s
  exact ⟨_, exec_cfg_of_le hL s, rfl, hS.trans (ceil8_eq_div _), hpre, hsof,
    fun a ha => read_configured_of_gt (hS ▸ ha), rfl⟩

theorem wf_configured {L : Word} (hL : L.toNat ≤ 2040) {s : State} (hs : s.pbuf.wf = true) :
    (configured L s).pbuf.wf = true := by
  obtain ⟨hpbuf, -⟩ := memoriesCanonical_stepInvariant.onConfigured (s.setScratch []) L hL ⟨hs, rfl⟩
  exact hpbuf

theorem configured_configured {L : Word} (hL : L.toNat ≤ 2040) {s : State} (hs : s.pbuf.wf = true) :
    configured L (configured L s) = configured L s := by
  have hpbuf : (configured L (configured L s)).pbuf = (configured L s).pbuf := by
    refine Mem.ext_of_read (wf_configured hL (wf_configured hL hs)) (wf_configured hL hs) fun a => ?_
    rw [read_configured]
    split
    · rw [read_configured, if_pos ‹_›]
    · split
      · rw [read_configured, if_neg ‹_›, if_pos ‹_›]
      · rfl
  exact congrArg (fun m => (configured L s).setPbuf m) hpbuf

/-- Settles O15: the second `CFG` writes the bytes that are there, and a canonical memory is fixed by its reads. -/
theorem cfgTwiceIsCfgOnce : Obligations.CfgTwiceIsCfgOnce := fun s _ hs hL =>
  ⟨_, exec_cfg_of_le hL s, (exec_cfg_of_le hL _).trans (congrArg _ (configured_configured hL hs))⟩

/-- Up to the SOF byte, PBUF is fixed by PBITS (10_state R26). -/
theorem read_pbuf_eq_of_preambleInPlace {s s' : State} (h : PreambleInPlace s) (h' : PreambleInPlace s')
    (hbits : s.pbits = s'.pbits) {a : Nat} (ha : a ≤ s.psize.toNat) : s.pbuf.read a = s'.pbuf.read a := by
  obtain ⟨-, hS, hpre, hsof⟩ := h
  obtain ⟨-, hS', hpre', hsof'⟩ := h'
  have hsize : s.psize.toNat = s'.psize.toNat := hS.trans (hbits ▸ hS'.symm)
  obtain hlt | rfl := Nat.lt_or_eq_of_le ha
  · rw [hpre a hlt, hpre' a (hsize ▸ hlt), hbits, hsize]
  · rw [hsof, hsize, hsof']

/-- Settles O2: both write the registers of the strap, and both put its preamble in place. -/
theorem constructionActsAsConfigure : Obligations.ConstructionActsAsConfigure := by
  intro s L oldBits oldSize ms oldPbuf hm hL
  refine ⟨_, _, step_of_moves_reset hm hL, exec_cfg_of_le hL _, rfl, fun a ha => ?_⟩
  exact read_pbuf_eq_of_preambleInPlace (preambleInPlace_configured hL _) (preambleInPlace_afterReset hL ms s.inb) rfl ha

/-- A recognised `BLOB` that fits, on a preamble in place, as one update (42_frame_processor R157). -/
theorem exec_blob_recognised {s : State} (hs : PreambleInPlace s) (hd : s.done = false)
    (beams target h3 h4 h5 h6 h7 : Byte) {payload : List Byte} (hl : 8 + payload.length + s.size < 254) :
    exec (.blob ([0x01#8, beams, target, h3, h4, h5, h6, h7] ++ payload)) s =
      .next (framed beams target payload (preambleBytes s.pbits.toNat ++ [0xF0#8])
        (copied ([0x01#8, beams, target, h3, h4, h5, h6, h7] ++ payload) s)) := by
  have hlen : ([0x01#8, beams, target, h3, h4, h5, h6, h7] ++ payload).length = 8 + payload.length :=
    List.length_append
  exact exec_next_iff_ends.mpr <| .recognised hd (List.cons_ne_nil _ _) (hlen ▸ hl) rfl <|
    .published (frameReady_copied hs (hlen ▸ hl) (by omega))

/-- Settles O27: the accepted `CFG` puts the preamble of `L` in place, and the frame is read out of PBUF from index 0. -/
theorem configureGovernsNextFrame : Obligations.ConfigureGovernsNextFrame := by
  intro s L beams target h3 h4 h5 h6 h7 payload hd hl
  have hL : L.toNat ≤ 2040 := by omega
  have hl' : 8 + payload.length + (configured L s).size < 254 := by
    rw [State.size, configured_size hL, ceil8_eq_div]
    exact hl
  refine ⟨_, _, exec_cfg_of_le hL s,
    exec_blob_recognised (preambleInPlace_configured hL s) hd beams target h3 h4 h5 h6 h7 hl', rfl, rfl, fun h0 => ?_⟩
  subst h0
  have hbits : (configured 0#16 s).pbits.toNat = 0 := rfl
  rw [hbits, preambleBytes_zero]
  exact List.getLast?_concat

end Sys2Proof.Machine
end

section
/-! The accepted lengths in the spec's own forms, and the bounds of the indices of an accepted frame
(spec/41_offset_calculator.md R120 to R129). -/

namespace Sys2Proof.Machine

theorem lenLimit_eq (S : Nat) : lenLimit S = 254 - S := by
  rw [lenLimit, config_work]
  omega

theorem lenOk_iff_range (S d : Nat) : lenOk S d = true ↔ 1 ≤ d ∧ (d : Int) ≤ 253 - S := by
  rw [lenOk_iff]
  omega

theorem lenOk_iff_lt_lenLimit (S d : Nat) : lenOk S d = true ↔ d ≠ 0 ∧ (d : Int) < lenLimit S := by
  rw [lenOk_iff, lenLimit_eq]
  omega

theorem frameLen_eq_offPad_succ (S n : Nat) : frameLen S n = offPad S n + 1 := rfl

theorem offPayload_le_offPad (S n : Nat) : offPayload S ≤ offPad S n := Nat.le_add_right _ _

theorem offPad_le_of_lenOk {S d : Nat} (hok : lenOk S d = true) (h8 : 8 ≤ d) : offPad S (d - 8) ≤ 246 := by
  have hfit : d + S < 254 := ((lenOk_iff S d).mp hok).2
  rw [offPad]
  omega

/-- Settles O16: both forms of the check say `dataLen + S < 254`, and the 8 header bytes within `dataLen` leave the pad
byte at `dataLen + S - 7`. The bound on `S` is not needed: for `S` of 253 and more no length is accepted. -/
theorem acceptedLengthsBoundEveryIndex : Obligations.AcceptedLengthsBoundEveryIndex := by
  intro S d _
  refine ⟨lenOk_iff_range S d, lenOk_iff_lt_lenLimit S d, fun hok h8 => ?_⟩
  have hpad : offPad S (d - 8) ≤ 246 := offPad_le_of_lenOk hok h8
  exact ⟨d - 8, linkLen_of_le h8, rfl, offPayload_le_offPad S _, hpad, frameLen_eq_offPad_succ S _,
    Nat.succ_le_succ hpad⟩

end Sys2Proof.Machine
end

section
/-! The three inbound messages and the checks in front of them (spec/42_frame_processor.md R141 to R145), taken from the
endings of each command. -/

namespace Sys2Proof.Machine

open Sys2Proof.Safety

theorem isMessage_iff {i : Instr} : isMessage i = true ↔ i = .eos ∨ i = .bad ∨ ∃ b, i = .blob b := by
  cases i <;> simp [isMessage]

theorem transferable_of_isMessage {i : Instr} (h : isMessage i = true) : Transferable i := by
  obtain rfl | rfl | ⟨b, rfl⟩ := isMessage_iff.mp h <;> exact ⟨nofun, nofun⟩

/-- A descriptor on port `ind` never decodes to a `CFG` (30_encoding R85). -/
theorem isMessage_of_decodeD1_ind {kind : BitVec 2} {len : Word} {inb left : List Byte} {i : Instr}
    (h : decodeD1 (dispatchWord 0#1 kind) len inb = .ok (i, left)) : isMessage i = true := by
  have hrow : ∀ kind, mnemonicOfD1 (dispatchWord 0#1 kind) ≠ .cfg := by decide
  have hcfg : i.mnemonic ≠ .cfg := mnemonic_of_decodeD1 h ▸ hrow kind
  obtain ⟨hframe, hdrop⟩ := transferable_of_decodeD1 h
  cases i with
  | eos | bad | blob => rfl
  | cfg => exact absurd rfl hcfg
  | frame => exact absurd rfl hframe
  | drop => exact absurd rfl hdrop

/-- In Closed a message has one ending, whatever it carries (42_frame_processor R141). -/
theorem exec_of_closed {i : Instr} {s : State} (hi : isMessage i = true) (hd : s.done = true) :
    exec i s = .next (s.raise .closed) :=
  exec_next_iff_ends.mpr (.closed hi hd)

theorem exec_blob_lenZero {s : State} (hd : s.done = false) : exec (.blob []) s = .next (s.raise .lenZero) :=
  exec_next_iff_ends.mpr (.lenZero hd)

theorem exec_blob_lenOver {s : State} {b : List Byte} (hd : s.done = false) (hb : b.length ≠ 0)
    (hl : 254 ≤ b.length + s.psize.toNat) : exec (.blob b) s = .next (s.raise .lenOver) :=
  exec_next_iff_ends.mpr (.lenOver hd (List.ne_nil_of_length_pos (Nat.pos_of_ne_zero hb)) hl)

/-- Settles O17: `EOS` has one ending in each lifecycle state. -/
theorem eosClosesBlock : Obligations.EosClosesBlock := fun _ =>
  ⟨fun hd => exec_next_iff_ends.mpr (.eos hd), exec_of_closed rfl⟩

/-- Settles O18: in Active the one ending of `BAD` is the raise. -/
theorem badRaisesBadShape : Obligations.BadRaisesBadShape := fun _ hd => exec_next_iff_ends.mpr (.bad hd)

/-- Settles O19: every descriptor decodes to a message, and its bytes are taken before the Closed check. -/
theorem closedBlockRefusesEveryMessage : Obligations.ClosedBlockRefusesEveryMessage := by
  refine ⟨fun s i hd hi => exec_of_closed (isMessage_iff.mpr hi) hd, fun s kind len rest hd hm hsent => ?_⟩
  obtain ⟨i, hdec⟩ := exists_decodeD1_ind kind hsent
  rw [step_of_moves_ind hm hdec]
  exact exec_of_closed (isMessage_of_decodeD1_ind hdec) hd

/-- Settles O20: each test has its own ending, and at the ports the bytes are taken before the tests. -/
theorem blobLengthChecked : Obligations.BlobLengthChecked := by
  refine ⟨fun s b hd => ⟨fun h0 => ?_, exec_blob_lenOver hd⟩, fun s len rest hd hm hsent => ?_⟩
  · obtain rfl := List.length_eq_zero_iff.mp h0
    exact exec_blob_lenZero hd
  · have hlen : (s.inb.take len.toNat).length = len.toNat := List.length_take_of_le hsent
    rw [step_of_moves_ind hm (decodeD1_blob hsent)]
    refine ⟨fun h0 => ?_, fun hne hl => ?_⟩
    · rw [h0, List.take_zero, List.drop_zero]
      exact exec_blob_lenZero hd
    · refine exec_blob_lenOver hd ?_ ?_ <;> rw [hlen]
      · exact hne
      · exact hl

/-- The four outcomes of 42_frame_processor R140: the end of the stream, nothing, beams and a frame, an error. -/
def HasOneOutcome (s t : State) : Prop :=
  (t.out = s.out ++ [.eosOut] ∧ t.err = s.err ∧ s.done = false ∧ t.done = true) ∨
    (t.out = s.out ∧ t.err = s.err ∧ t.done = s.done) ∨
    (∃ k target bytes, t.out = s.out ++ List.replicate k (.beam target) ++ [.phy bytes] ∧ t.err = s.err ∧
      t.done = s.done) ∨
    (∃ e, t.out = s.out ∧ t.err = s.err ++ [e] ∧ t.done = s.done)

theorem FrameEnds.hasOneOutcome {d : Nat} {s t : State} (h : FrameEnds d s t) : HasOneOutcome s t := by
  cases h with
  | short => exact .inr (.inr (.inr ⟨_, rfl, rfl, rfl⟩))
  | published => exact .inr (.inr (.inl ⟨_, _, _, rfl, rfl, rfl⟩))

theorem Ends.hasOneOutcome {i : Instr} {s t : State} (h : Ends i s t) : HasOneOutcome s t := by
  cases h with
  | eos hd => exact .inl ⟨rfl, rfl, hd, rfl⟩
  | configured | dropped | drop => exact .inr (.inl ⟨rfl, rfl, rfl⟩)
  | recognised _ _ _ _ hf => exact hf.hasOneOutcome
  | frame hf => exact hf.hasOneOutcome
  | cfgRange | closed | bad | lenZero | lenOver => exact .inr (.inr (.inr ⟨_, rfl, rfl, rfl⟩))

/-- Settles O28: a message goes on when the preamble is in place, and each ending is one of the four outcomes. -/
theorem messageHasOneOutcome : Obligations.MessageHasOneOutcome := by
  intro s i hs hi
  obtain ⟨t, ht⟩ := exists_exec_next hs (transferable_of_isMessage (isMessage_iff.mpr hi))
  exact ⟨t, ht, (exec_next_iff_ends.mp ht).hasOneOutcome⟩

/-- Settles O33: only a reset opens the block and only the `EOS` that closes it emits an EosOut; a frame is emitted in
Active, so none stands behind the EosOut. -/
theorem stepKeepsEndOfStreamOnce : Obligations.StepKeepsEndOfStreamOnce := fun _ _ hs h =>
  endOfStreamOnce_stepInvariant.keeps_step hs h

end Sys2Proof.Machine
end

section
/-! The copy of an accepted `BLOB` to SCRATCH, and the frame of a recognised one: which cells each writes
(spec/42_frame_processor.md R147, R151 to R157). -/

namespace Sys2Proof.Machine

open Sys2Proof.Safety

theorem sameOutside_putList (m : Mem) (a : Nat) (bytes : List Byte) :
    SameOutside m (m.putList a bytes) a bytes.length := fun x hx => by
  rw [Mem.read_putList, if_neg (by omega)]

/-- The payload and the pad byte are the only cells a frame writes. -/
theorem sameOutside_putFrame (m : Mem) (S : Nat) (payload : List Byte) :
    SameOutside m (m.putFrame S payload) (S + 1) (payload.length + 1) := fun x hx => by
  rw [Mem.putFrame, Mem.read_put_other _ _ (by omega), sameOutside_putList m (S + 1) payload x (by omega)]

/-- The second part of a list stands behind the first. -/
theorem holds_right_of_append {m : Mem} {a : Nat} {xs ys : List Byte} (h : Holds m a (xs ++ ys)) :
    Holds m (a + xs.length) ys := fun i hi => by
  rw [Nat.add_assoc, h (xs.length + i) (by rw [List.length_append]; omega),
    List.getElem?_append_right (Nat.le_add_right _ _), Nat.add_sub_cancel_left]

theorem readByte_of_holds {m : Mem} {bytes : List Byte} {i : Nat} {v : Byte} (h : Holds m 0 bytes)
    (hv : bytes[i]? = some v) (hi : i < 256) : readByte m i = .ok v := by
  have hread := h i (List.getElem?_eq_some_iff.mp hv).1
  rw [Nat.zero_add, hv] at hread
  exact readByte_ok_iff.mpr ⟨hi, hread⟩

/-- Whatever its marker, an accepted `BLOB` leaves SCRATCH with its copy: the second stage writes none of it. -/
theorem Ends.scratch_of_accepted {b : List Byte} {s t : State} (h : Ends (.blob b) s t) (hd : s.done = false)
    (hb : b ≠ []) (hl : b.length + s.size < 254) : t.scratch = s.scratch.putList 0 b := by
  cases h with
  | closed _ hclosed => exact absurd (hd.symm.trans hclosed) Bool.false_ne_true
  | lenZero => exact absurd rfl hb
  | lenOver _ _ hover => omega
  | dropped => rfl
  | recognised _ _ _ _ hf => cases hf <;> rfl

/-- Settles O21: the `BLOB` goes on, and SCRATCH then holds the copy and nothing else that is new. -/
theorem blobCopiedToScratch : Obligations.BlobCopiedToScratch := by
  intro s b hs hd hb hl
  obtain ⟨t, ht⟩ := exists_exec_next hs (i := .blob b) (transferable_of_isMessage rfl)
  have hcopy := (exec_next_iff_ends.mp ht).scratch_of_accepted hd hb hl
  exact ⟨t, ht, hcopy ▸ holds_putList s.scratch 0 b, hcopy ▸ sameOutside_putList s.scratch 0 b⟩

/-- Settles O23: the `BLOB` ends with the copy, which writes SCRATCH alone. -/
theorem unrecognisedBlobDropped : Obligations.UnrecognisedBlobDropped := by
  intro s m rest hd hl hm
  have hmarker : (m :: rest)[0]? ≠ some 0x01#8 := fun h => hm (Option.some.inj h)
  exact ⟨copied (m :: rest) s, exec_next_iff_ends.mpr (.dropped hd (List.cons_ne_nil m rest) hl hmarker), rfl,
    holds_putList _ 0 _, sameOutside_putList _ 0 _, fun _ _ => rfl⟩

/-- A blob in SCRATCH and a preamble in PBUF are all a `FRAME` of fitting length needs. -/
theorem frameReady_of_holds {s : State} {hdr payload pre : List Byte} {beams target : Byte} (hlen : hdr.length = 8)
    (hbeams : hdr[1]? = some beams) (htarget : hdr[2]? = some target) (hscratch : Holds s.scratch 0 (hdr ++ payload))
    (hprelen : pre.length = s.size + 1) (hpre : Holds s.pbuf 0 pre) (hl : 8 + payload.length + s.size < 254) :
    FrameReady (8 + payload.length) s beams target payload pre where
  header := Nat.le_add_right _ _
  beams := readByte_of_holds hscratch (by rw [List.getElem?_append_left (by omega), hbeams]) (by decide)
  target _ := readByte_of_holds hscratch (by rw [List.getElem?_append_left (by omega), htarget]) (by decide)
  payload := by
    have hpayload := holds_right_of_append hscratch
    rw [hlen, Nat.zero_add] at hpayload
    rw [Nat.add_sub_cancel_left]
    exact memRead_of_holds hpayload (by omega)
  room := by omega
  preLength := hprelen
  preamble := hpre

/-- Settles O25: all four stages have their bytes, so `FRAME` ends in `framed`, whose fields are those stated. -/
theorem frameEmitsBeamsThenFrame : Obligations.FrameEmitsBeamsThenFrame := by
  intro s hdr payload pre beams target _ hlen hbeams htarget hscratch hprelen hpre hl
  have hready := frameReady_of_holds hlen hbeams htarget hscratch hprelen hpre hl
  have hframe := holds_putFrame payload hpre hprelen
  rw [List.append_assoc] at hframe
  have hbehind := holds_right_of_append hframe
  rw [hprelen, Nat.zero_add] at hbehind
  exact ⟨framed beams target payload pre s, exec_next_iff_ends.mpr (.frame (.published hready)), rfl, hbehind,
    sameOutside_putFrame s.pbuf s.size payload, fun h0 => if_pos h0, rfl⟩

/-- Settles O26: the copy writes SCRATCH alone, and the frame its cells of PBUF, OUT and BEAM_NODE. -/
theorem recognisedBlobClosedForm : Obligations.RecognisedBlobClosedForm := by
  intro s beams target h3 h4 h5 h6 h7 payload hs hd hl
  have hcopy := sameOutside_putList s.scratch 0 ([0x01#8, beams, target, h3, h4, h5, h6, h7] ++ payload)
  rw [List.length_append] at hcopy
  exact ⟨_, exec_blob_recognised hs hd beams target h3 h4 h5 h6 h7 hl, rfl, hcopy,
    sameOutside_putFrame s.pbuf s.size payload, rfl, rfl⟩

end Sys2Proof.Machine
end

section
/-! The errors of spec/60_exceptions.md: which one a command raises (R188), what `SHORT_HDR` leaves behind (R184), and the
two lifecycle states, which no error changes (R193). -/

namespace Sys2Proof.Machine

open Sys2Proof.Safety

/-- Settles O24: the copy, which writes SCRATCH alone, stands before the header test. -/
theorem shortHeaderRaisedAfterCopy : Obligations.ShortHeaderRaisedAfterCopy := by
  refine ⟨fun s rest hd h7 hl => ?_, fun s dataLen _ h8 => exec_next_iff_ends.mpr (.frame (.short h8))⟩
  have hshort : FrameEnds (rest.length + 1) (copied (0x01#8 :: rest) s) _ := .short (Nat.succ_lt_succ h7)
  exact ⟨_, exec_next_iff_ends.mpr (.recognised hd (List.cons_ne_nil _ rest) hl rfl hshort),
    holds_putList s.scratch 0 _, sameOutside_putList s.scratch 0 _, rfl⟩

/-- The errors a command raises from `s`: the tests of R188 in their order, of which the first that fails counts. -/
def raisedErrors (s : State) : Instr → List Err
  | .cfg L => if 2040 < L.toNat then [.cfgRange] else []
  | .eos => if s.done = true then [.closed] else []
  | .bad => if s.done = true then [.closed] else [.badShape]
  | .blob b =>
    if s.done = true then [.closed]
    else if b.length = 0 then [.lenZero]
    else if 254 ≤ b.length + s.size then [.lenOver]
    else if b[0]? = some 0x01#8 ∧ b.length < 8 then [.shortHdr]
    else []
  | .frame dataLen => if dataLen < 8 then [.shortHdr] else []
  | .drop _ => []

theorem raisedErrors_of_closed {i : Instr} {s : State} (hi : isMessage i = true) (hd : s.done = true) :
    raisedErrors s i = [.closed] := by
  obtain rfl | rfl | ⟨b, rfl⟩ := isMessage_iff.mp hi <;> exact if_pos hd

/-- Of an accepted blob only the marker and the header are tested still. -/
theorem raisedErrors_of_accepted {b : List Byte} {s : State} (hd : s.done = false) (hb : b ≠ [])
    (hl : b.length + s.size < 254) :
    raisedErrors s (.blob b) = if b[0]? = some 0x01#8 ∧ b.length < 8 then [.shortHdr] else [] := by
  have hpos : b.length ≠ 0 := fun h0 => hb (List.length_eq_zero_iff.mp h0)
  simp only [raisedErrors, hd, Bool.false_eq_true, hpos, Nat.not_le.mpr hl, if_false]

@[simp] theorem configured_err (L : Word) (s : State) : (configured L s).err = s.err := rfl

@[simp] theorem copied_err (b : List Byte) (s : State) : (copied b s).err = s.err := rfl

@[simp] theorem framed_err (k target : Byte) (payload pre : List Byte) (s : State) :
    (framed k target payload pre s).err = s.err := rfl

theorem FrameEnds.err_eq {d : Nat} {s t : State} (h : FrameEnds d s t) :
    t.err = s.err ++ raisedErrors s (.frame d) := by
  cases h with
  | short hd => simp [raisedErrors, hd]
  | published hready => simp [raisedErrors, Nat.not_lt.mpr hready.header]

/-- Whatever the ending of a command, ERR took the errors of its first failing test. -/
theorem Ends.err_eq {i : Instr} {s t : State} (h : Ends i s t) : t.err = s.err ++ raisedErrors s i := by
  cases h with
  | cfgRange hL => simp [raisedErrors, hL]
  | configured hL => simp [raisedErrors, Nat.not_lt.mpr hL]
  | closed hi hd => rw [raisedErrors_of_closed hi hd]; rfl
  | eos hd => simp [raisedErrors, hd]
  | bad hd => simp [raisedErrors, hd]
  | lenZero hd => simp [raisedErrors, hd]
  | lenOver hd hb hl => simp [raisedErrors, hd, hb, hl]
  | dropped hd hb hl hm =>
    rw [raisedErrors_of_accepted hd hb hl, if_neg fun hshort => hm hshort.1, List.append_nil, copied_err]
  | recognised hd hb hl hm hf =>
    rw [raisedErrors_of_accepted hd hb hl, hf.err_eq]
    simp [raisedErrors, hm]
  | frame hf => exact hf.err_eq
  | drop => exact (List.append_nil _).symm

theorem exists_exec_next_raising {s : State} (hs : PreambleInPlace s) {i : Instr} (hi : Transferable i) :
    ∃ t, exec i s = .next t ∧ t.err = s.err ++ raisedErrors s i := by
  obtain ⟨t, ht⟩ := exists_exec_next hs hi
  exact ⟨t, ht, (exec_next_iff_ends.mp ht).err_eq⟩

/-- Settles O29: a command goes on when the preamble is in place, and every ending raises by its first failing test. -/
theorem firstFailingTestIsRaised : Obligations.FirstFailingTestIsRaised := fun _ hs =>
  ⟨fun L => exists_exec_next_raising hs (i := .cfg L) ⟨nofun, nofun⟩,
    exists_exec_next_raising hs (transferable_of_isMessage (i := .eos) rfl),
    exists_exec_next_raising hs (transferable_of_isMessage (i := .bad) rfl),
    fun b => exists_exec_next_raising hs (transferable_of_isMessage (i := .blob b) rfl)⟩

theorem FrameEnds.done_eq {d : Nat} {s t : State} (h : FrameEnds d s t) : t.done = s.done := by
  cases h <;> rfl

theorem done_iff_of_kept {i : Instr} {s t : State} (hi : i ≠ .eos) (ht : t.done = s.done) :
    t.done = true ↔ s.done = true ∨ i = .eos := by
  rw [ht, or_iff_left hi]

/-- The one command that changes the lifecycle state is the `EOS` that closes it. -/
theorem Ends.done_iff {i : Instr} {s t : State} (h : Ends i s t) : t.done = true ↔ s.done = true ∨ i = .eos := by
  cases h with
  | closed _ hd => exact iff_of_true hd (.inl hd)
  | eos => exact iff_of_true rfl (.inr rfl)
  | cfgRange | configured | bad | lenZero | lenOver | dropped | drop => exact done_iff_of_kept nofun rfl
  | recognised _ _ _ _ hf => exact done_iff_of_kept nofun hf.done_eq
  | frame hf => exact done_iff_of_kept nofun hf.done_eq

/-- Settles O38: the event is the reset state, and fetching a command leaves DONE to the command's ending. -/
theorem lifecycleTransitions : Obligations.LifecycleTransitions := by
  intro s t h
  obtain ⟨-, hf⟩ | ⟨L, ms, -, ⟨-, hf⟩ | ⟨-, hf⟩⟩ | hf | ⟨i, ms, bs, hf, -⟩ := fetch_cases s <;> rw [hf]
  · exact ⟨nofun, nofun⟩
  · exact ⟨nofun, nofun⟩
  · rw [step_of_fetch_event hf] at h
    cases h
    exact ⟨fun _ _ => rfl, nofun⟩
  · exact ⟨nofun, nofun⟩
  · rw [step_of_fetch_command hf] at h
    refine ⟨nofun, fun j u hju => ?_⟩
    cases hju
    exact (exec_next_iff_ends.mp h).done_iff

end Sys2Proof.Machine
end

section
/-! The two stops of a step that the host causes: a strap outside the spec (spec/70_reset_and_hazards.md R211), and blob
bytes that were announced and not sent (spec/93_implementation_defined.md U16). -/

namespace Sys2Proof.Machine

theorem fetch_reset_of_gt {s : State} {L : Word} {rest : List HostMove} (hm : s.moves = .reset L :: rest)
    (hL : 2040 < L.toNat) : fetch s = .refused .strapOutOfRange := by
  simp only [fetch, hm]
  exact if_pos hL

/-- Settles O3: the fetch compares the strap with the longest preamble before the reset state is formed. -/
theorem strapAboveRangeRefused : Obligations.StrapAboveRangeRefused := fun _ _ _ hm hL =>
  step_of_fetch_refused (fetch_reset_of_gt hm hL)

theorem decodeD1_blob_of_lt {operand : Word} {inb : List Byte} (h : inb.length < operand.toNat) :
    decodeD1 0b000#3 operand inb = .error (.awaitingBytes operand.toNat inb.length) :=
  if_pos h

/-- A decode can lack nothing but bytes of a blob, so a transfer that does not decode waits for them. -/
theorem accept_of_decodeD1_error {s : State} {port : BitVec 1} {kind : BitVec 2} {operand : Word} {e : DecodeError}
    (h : decodeD1 (dispatchWord port kind) operand s.inb = .error e) (rest : List HostMove) :
    accept port kind operand rest s = .stuck .awaitingBlobBytes := by
  cases e with
  | awaitingBytes need got => simp only [accept, h]

/-- Settles O9: kind 00 is the dispatch word of `BLOB`, and its decode asks for all the bytes announced. -/
theorem blobWaitsForMissingBytes : Obligations.BlobWaitsForMissingBytes := by
  intro s len rest hm hlt
  have hdec : decodeD1 (dispatchWord 0#1 0#2) len s.inb = _ := decodeD1_blob_of_lt hlt
  exact step_of_fetch_stuck (by simp only [fetch, hm, accept_of_decodeD1_error hdec])

end Sys2Proof.Machine
end
